-- ==== Sys2Proof/Word.lean ====
section
/-! DEFINITION. The widths of the values the Frame Codec handles (00_scope.md sections 4 and 6). -/

namespace Sys2Proof

/-- A byte: 8 bits, unsigned (00_scope.md section 6). -/
abbrev Byte := BitVec 8

/-- A 4-bit value: the registers `len` and `pos` (R13, R15) and the index of `GETBYTE` (R42). -/
abbrev Nibble := BitVec 4

/-- A 16-bit value: the param, the checksum and the `val` field of a response (R24, R25, R43). -/
abbrev Half := BitVec 16

/-- A host command word: 32 bits, bit 0 the least significant (R41). -/
abbrev Word := BitVec 32

end Sys2Proof
end

