-- ==== Sys2Proof/Config.lean ====
section
/-! DEFINITION. The implementation parameter that the spec leaves open: `RESET_PAYLOAD` (R5, R20).
The wire constants, which R3 makes parameters fixed at the document's values, are in
Machine/Template.lean. -/

namespace Sys2Proof

/-- Six byte values for buffer positions 3 to 8 of one slot: what the registers of a slot hold after
a reset (R5, R20). -/
structure PayloadBytes where
  p3 : Byte
  p4 : Byte
  p5 : Byte
  p6 : Byte
  p7 : Byte
  p8 : Byte
deriving DecidableEq, Repr

/-- `RESET_PAYLOAD` (R5): six bytes for each slot. The spec gives no values, and 93 (U1) lets them
differ from one reset to the next, so each reset of the model carries its own. -/
structure ResetPayload where
  tx : PayloadBytes
  rx : PayloadBytes
deriving DecidableEq, Repr

/-- The payload of the state `State.reset`, a value the model names because the spec gives none:
twelve zero bytes. DESIGN CHOICE, unsafe (notes/assumptions/1.md): R98 forbids a proof about the
block to depend on these bytes, and the statements about reset hold for every `ResetPayload`. -/
def Config.resetPayload : ResetPayload :=
  ⟨⟨0, 0, 0, 0, 0, 0⟩, ⟨0, 0, 0, 0, 0, 0⟩⟩

end Sys2Proof
end

