-- ==== Sys2Proof/Syntax.lean ====
section
/-! DEFINITION. The ten host operations (R8, opcode_table.json), their operands, and the reasons a
command word is refused for (R82). -/

namespace Sys2Proof

/-- The two frame slots: `TX` (selector 0) and `RX` (selector 1) (R4). -/
inductive SlotId where
  | tx
  | rx
deriving DecidableEq, Repr

/-- The ten operation selects of R42, in the order of their codes 0x1 to 0xA. -/
inductive Op where
  | set
  | recv
  | valid
  | getlen
  | getbyte
  | getcmd
  | getfb
  | getparam
  | getphi
  | getplo
deriving DecidableEq, Repr

/-- An operation with its operands (R8). Every operation names the slot it acts on. -/
inductive Instr where
  /-- `SET s, cmd, param, fb` (R53). -/
  | set (sl : SlotId) (cmd : Byte) (param : Half) (fb : Bool)
  /-- `RECV s, b` (R57). -/
  | recv (sl : SlotId) (b : Byte)
  /-- `VALID s` (R71). -/
  | valid (sl : SlotId)
  /-- `GETLEN s` (R73). -/
  | getlen (sl : SlotId)
  /-- `GETBYTE s, i` (R74). The index is 4 bits wide, so 10 to 15 can be named (R22). -/
  | getbyte (sl : SlotId) (i : Nibble)
  /-- `GETCMD s` (R75). -/
  | getcmd (sl : SlotId)
  /-- `GETFB s` (R76). -/
  | getfb (sl : SlotId)
  /-- `GETPARAM s` (R77). -/
  | getparam (sl : SlotId)
  /-- `GETPHI s` (R78). -/
  | getphi (sl : SlotId)
  /-- `GETPLO s` (R79). -/
  | getplo (sl : SlotId)
deriving DecidableEq, Repr

/-- The three causes of the one abnormal outcome, Refused (R82). -/
inductive RefusedReason where
  /-- `reserved_op`, code 1: `w[31:28]` is 0x0 or 0xB to 0xF. -/
  | reservedOp
  /-- `nonzero_reserved_bits`, code 2: a must-be-zero bit of the word's format is 1. -/
  | nonzeroReservedBits
  /-- `bad_index`, code 3: `GETBYTE` with an index in 10 to 15. -/
  | badIndex
deriving DecidableEq, Repr

/-- The slot an operation names (R8). -/
def Instr.slotId : Instr → SlotId
  | .set sl _ _ _ => sl
  | .recv sl _ => sl
  | .valid sl => sl
  | .getlen sl => sl
  | .getbyte sl _ => sl
  | .getcmd sl => sl
  | .getfb sl => sl
  | .getparam sl => sl
  | .getphi sl => sl
  | .getplo sl => sl

/-- The operation select of an operation (R42). -/
def Instr.op : Instr → Op
  | .set _ _ _ _ => .set
  | .recv _ _ => .recv
  | .valid _ => .valid
  | .getlen _ => .getlen
  | .getbyte _ _ => .getbyte
  | .getcmd _ => .getcmd
  | .getfb _ => .getfb
  | .getparam _ => .getparam
  | .getphi _ => .getphi
  | .getplo _ => .getplo

end Sys2Proof
end

