-- ==== Sys2Proof/WellFormed.lean ====
section
/-! DEFINITION. Which operations name something that exists. The operand types already have the
widths of R8, so one check is left: the index of `GETBYTE` (R22, R28). -/

namespace Sys2Proof

/-- An operation is well formed when every operand addresses something: `GETBYTE` needs an index in
0 to 9 (R28). An ill-formed `GETBYTE` still has a command word and is still answered: it is refused
by value (R44, R74). -/
def Instr.wellFormed : Instr → Bool
  | .set _ _ _ _ => true
  | .recv _ _ => true
  | .valid _ => true
  | .getlen _ => true
  | .getbyte _ i => decide (i.toNat ≤ 9)
  | .getcmd _ => true
  | .getfb _ => true
  | .getparam _ => true
  | .getphi _ => true
  | .getplo _ => true

end Sys2Proof
end

