-- ==== Sys2Proof/Decode.lean ====
section
/-! DEFINITION. Command words: the decoder and the encoder (R41, R42, R44, R85). -/

namespace Sys2Proof

/-- `w[31:28]`, the operation select field (R41). -/
def opField (w : Word) : Nibble := w.extractLsb' 28 4

/-- `w[27]` as a slot: 0 is `TX`, 1 is `RX` (R41). -/
def slotField (w : Word) : SlotId := if w.extractLsb' 27 1 = 0#1 then .tx else .rx

/-- `w[26]`, the feedback request of format S (R42). -/
def fbField (w : Word) : Bool := decide (w.extractLsb' 26 1 = 1#1)

/-- `w[23:16]`, the command identifier of format S (R42). -/
def cmdField (w : Word) : Byte := w.extractLsb' 16 8

/-- `w[15:0]`, the param of format S (R42). -/
def paramField (w : Word) : Half := w.extractLsb' 0 16

/-- `w[7:0]`, the received byte of format B (R42). -/
def byteField (w : Word) : Byte := w.extractLsb' 0 8

/-- `w[3:0]`, the index of format I (R42). -/
def indexField (w : Word) : Nibble := w.extractLsb' 0 4

/-- The operation a select code names, and none for the reserved codes 0x0 and 0xB to 0xF (R42,
R44). -/
def opOfCode (c : Nibble) : Option Op :=
  match c.toNat with
  | 1 => some .set
  | 2 => some .recv
  | 3 => some .valid
  | 4 => some .getlen
  | 5 => some .getbyte
  | 6 => some .getcmd
  | 7 => some .getfb
  | 8 => some .getparam
  | 9 => some .getphi
  | 10 => some .getplo
  | _ => none

/-- The select code of an operation (R42). -/
def Op.code : Op → Nibble
  | .set => 0x1#4
  | .recv => 0x2#4
  | .valid => 0x3#4
  | .getlen => 0x4#4
  | .getbyte => 0x5#4
  | .getcmd => 0x6#4
  | .getfb => 0x7#4
  | .getparam => 0x8#4
  | .getphi => 0x9#4
  | .getplo => 0xA#4

/-- The bits that must be zero in a word of the operation's format (R42): `w[25:24]` in format S,
`w[26:8]` in format B, `w[26:4]` in format I, `w[26:0]` in format N. -/
def Op.mustBeZero : Op → Word
  | .set => 0x03000000#32
  | .recv => 0x07FFFF00#32
  | .valid => 0x07FFFFFF#32
  | .getlen => 0x07FFFFFF#32
  | .getbyte => 0x07FFFFF0#32
  | .getcmd => 0x07FFFFFF#32
  | .getfb => 0x07FFFFFF#32
  | .getparam => 0x07FFFFFF#32
  | .getphi => 0x07FFFFFF#32
  | .getplo => 0x07FFFFFF#32

/-- The operation with its operands taken from the word's fields, unsigned, with no extension,
scaling or shifting (R42). -/
def Op.withOperands (w : Word) : Op → Instr
  | .set => .set (slotField w) (cmdField w) (paramField w) (fbField w)
  | .recv => .recv (slotField w) (byteField w)
  | .valid => .valid (slotField w)
  | .getlen => .getlen (slotField w)
  | .getbyte => .getbyte (slotField w) (indexField w)
  | .getcmd => .getcmd (slotField w)
  | .getfb => .getfb (slotField w)
  | .getparam => .getparam (slotField w)
  | .getphi => .getphi (slotField w)
  | .getplo => .getplo (slotField w)

/-- The decoder, total on every 32-bit word. The select is examined first and the must-be-zero bits
after it, so a reserved select gives `reserved_op` whatever its other bits are (R85). -/
def decode (w : Word) : Except RefusedReason Instr :=
  match opOfCode (opField w) with
  | none => .error .reservedOp
  | some op =>
    if w &&& op.mustBeZero = 0#32 then .ok (op.withOperands w) else .error .nonzeroReservedBits

/-- The reason codes of R82. -/
def RefusedReason.code : RefusedReason → Nat
  | .reservedOp => 1
  | .nonzeroReservedBits => 2
  | .badIndex => 3

/-- The slot bit of a command word (R41). -/
def slotBit : SlotId → BitVec 1
  | .tx => 0#1
  | .rx => 1#1

/-- The feedback bit of a format S word (R42). -/
def fbBit : Bool → BitVec 1
  | false => 0#1
  | true => 1#1

/-- A field whose lowest bit is bit `lo` of the word, with zeros everywhere else. -/
def place (lo : Nat) {n : Nat} (field : BitVec n) : Word := field.setWidth 32 <<< lo

/-- The select in `w[31:28]` and the slot in `w[27]` (R41), with zeros everywhere else: a whole word of
format N (R42). -/
def encodeN (op : Op) (sl : SlotId) : Word := place 28 op.code ||| place 27 (slotBit sl)

/-- The encoder, by the field positions of R42; the bits between the fields are zero. -/
def encode : Instr → Word
  | .set sl cmd param fb => encodeN .set sl ||| place 26 (fbBit fb) ||| place 16 cmd ||| place 0 param
  | .recv sl b => encodeN .recv sl ||| place 0 b
  | .valid sl => encodeN .valid sl
  | .getlen sl => encodeN .getlen sl
  | .getbyte sl i => encodeN .getbyte sl ||| place 0 i
  | .getcmd sl => encodeN .getcmd sl
  | .getfb sl => encodeN .getfb sl
  | .getparam sl => encodeN .getparam sl
  | .getphi sl => encodeN .getphi sl
  | .getplo sl => encodeN .getplo sl

/-- The command word whose low `nbits` bits are those of `w` and whose other bits are 0, numbered as
opcode_table.json numbers them. A command word is one 32-bit word on a port, so it has no byte order
(R41). -/
def tableWord (nbits w : Nat) : Word := BitVec.ofNat 32 (w % 2 ^ nbits)

/-- What the decoder reads from a word given by the opcode table's numbering. -/
def decodeTableWord (nbits w : Nat) : Option Instr :=
  match decode (tableWord nbits w) with
  | .ok i => some i
  | .error _ => none

end Sys2Proof
end

