-- ==== Sys2Proof/Machine/State.lean ====
section
/-! DEFINITION. The state of the block (R9), the host's side of the command port, the machine right
after reset (R20), and the reasons a step could stop with. -/

namespace Sys2Proof.Machine

/-- One frame slot (R9): six byte registers, buffer positions 3 to 8, under the names of R10, and the
two 4-bit registers. Positions 0, 1, 2 and 9 are constants, not registers (R11). -/
structure FrameSlot where
  /-- `buf[3]` -/
  commandId : Byte
  /-- `buf[4]` -/
  feedbackFlag : Byte
  /-- `buf[5]` -/
  paramHi : Byte
  /-- `buf[6]` -/
  paramLo : Byte
  /-- `buf[7]`: the high checksum byte of a long frame, the end constant of a short one. -/
  checksumHi : Byte
  /-- `buf[8]` -/
  checksumLo : Byte
  /-- `F.len` (R13): which form of frame the slot holds, 10, 8 or 0. -/
  len : Nibble
  /-- `F.pos` (R15): the position the next received byte is a candidate for. -/
  pos : Nibble
deriving DecidableEq, Repr

/-- What the outside world does to the block, in the order it does it: the host issues a command word
(R41), or the reset pin is asserted between two operations (R90). A reset carries the values that
positions 3 to 8 happen to hold after it (R5, 93 U1): any twelve bytes. -/
inductive HostInput where
  | command (w : Word)
  | reset (payload : ResetPayload)
deriving DecidableEq, Repr

/-- How an operation is answered (R43): performed, with the `val` field of the response, or refused.
The reason is the model's bookkeeping and is not reported to the host (R82). -/
inductive Answer where
  | performed (val : Half)
  | refused (why : RefusedReason)
deriving DecidableEq, Repr

/-- The machine: the whole state of the block is the two slots (R9). `inputs` and `answer` are the
model's own and no state of the block (R21, R18): what the host will do next, oldest first, and the
response port, which no operation reads (notes/assumptions/2.md and 4.md). -/
structure State where
  tx : FrameSlot
  rx : FrameSlot
  inputs : List HostInput
  answer : Option Answer
deriving DecidableEq, Repr

/-- No fault exists: no operation raises an exception on its data, hangs or gets stuck (R81). Nobody
raises one, which is safe: the hardware stops nowhere either. -/
inductive Fault
deriving DecidableEq, Repr

/-- Why the model would have no meaning for an instruction. The hardware's own refusal of a command
word (R82) is none of these: it is an answer, and the machine goes on. -/
inductive Refusal where
  /-- Raised by an arm of `exec` whose instruction has no meaning yet; safe. No arm raises it. -/
  | notModelled (mnemonic : String)
deriving DecidableEq, Repr

/-- A slot after reset (R20): `pos` and `len` are 0 and the payload registers hold whatever the reset
left in them. -/
def FrameSlot.afterReset (p : PayloadBytes) : FrameSlot :=
  { commandId := p.p3
    feedbackFlag := p.p4
    paramHi := p.p5
    paramLo := p.p6
    checksumHi := p.p7
    checksumLo := p.p8
    len := 0#4
    pos := 0#4 }

/-- The machine after a reset that left `payload` in the payload registers (R20, R90), with `inputs`
still to come. No operation has been answered. -/
def State.resetWith (payload : ResetPayload) (inputs : List HostInput) : State :=
  { tx := FrameSlot.afterReset payload.tx
    rx := FrameSlot.afterReset payload.rx
    inputs := inputs
    answer := none }

/-- The machine right after reset, nothing issued yet. Its payload bytes are the model's choice
(notes/assumptions/1.md, unsafe). -/
def State.reset : State := State.resetWith Config.resetPayload []

end Sys2Proof.Machine
end

