-- ==== Sys2Proof/Machine/Template.lean ====
section
/-! DEFINITION. The four wire constants (R3) and the fixed-template positions (R11). -/

namespace Sys2Proof.Machine

/-- The frame-start constant (R3). -/
abbrev START : Byte := 0x7E#8

/-- The version constant (R3). -/
abbrev VERSION : Byte := 0xFF#8

/-- The value of the length field, not the length of the frame (R3). -/
abbrev LENGTH : Byte := 0x06#8

/-- The frame-end constant (R3). -/
abbrev END : Byte := 0xEF#8

/-- `TEMPLATE[p]`: the constant hardwired at position `p`, and none where the position is a register
or does not exist (R11, 00_scope.md section 7). -/
def template (p : Nibble) : Option Byte :=
  match p.toNat with
  | 0 => some START
  | 1 => some VERSION
  | 2 => some LENGTH
  | 9 => some END
  | _ => none

end Sys2Proof.Machine
end

