-- ==== Sys2Proof/Machine/Operands.lean ====
section
/-! DEFINITION. The operand and result forms: the halves of a 16-bit value (R24, R25), the feedback
byte (R39) and the widening of a result to the response's `val` field (R43). -/

namespace Sys2Proof.Machine

/-- `v[15:8]` (R24, R25). -/
def highByte (v : Half) : Byte := v.extractLsb' 8 8

/-- `v[7:0]` (R24, R25). -/
def lowByte (v : Half) : Byte := v.extractLsb' 0 8

/-- `{hi, lo}`: two bytes as one 16-bit value, big-endian (R24, R25). -/
def joinBytes (hi lo : Byte) : Half := (hi ++ lo).cast rfl

/-- `zext_8(fb)`: 0x01 when the feedback request is 1 and 0x00 when it is 0 (R39, D9). -/
def feedbackByte (fb : Bool) : Byte := if fb then 0x01#8 else 0x00#8

/-- `zext_16` of a byte result (R43). -/
def byteResult (v : Byte) : Half := v.setWidth 16

/-- `zext_16` of a 1-bit result (R43). -/
def bitResult (v : Bool) : Half := if v then 1#16 else 0#16

/-- `zext_16` of a 4-bit result (R43). -/
def lenResult (v : Nibble) : Half := v.setWidth 16

end Sys2Proof.Machine
end

