-- ==== Sys2Proof/Machine/Ops.lean ====
section
/-! DEFINITION. The named operations over the slots, the frame buffer and the response port. The block
has no trap: what stands here beside the accessors is the one abnormal outcome, Refused (R82), and the
reset pin (R90). -/

namespace Sys2Proof.Machine

/-- The slot a selector names (R4). -/
def State.slot (s : State) : SlotId → FrameSlot
  | .tx => s.tx
  | .rx => s.rx

/-- The state with one slot replaced. The other slot is untouched (R19). -/
def State.setSlot (s : State) (sl : SlotId) (f : FrameSlot) : State :=
  match sl with
  | .tx => { s with tx := f }
  | .rx => { s with rx := f }

/-- The response `err = 0`, `val = v` of an operation that is performed (R43). -/
def State.answered (s : State) (v : Half) : State := { s with answer := some (.performed v) }

/-- Refused: no bit of either slot changes, and the response is `err = 1`, `val = 0` (R82). -/
def State.refuse (s : State) (why : RefusedReason) : State := { s with answer := some (.refused why) }

/-- The `err` bit of a response (R43). -/
def Answer.err : Answer → Bool
  | .performed _ => false
  | .refused _ => true

/-- The `val` field of a response, 0 when the word was refused (R43). -/
def Answer.val : Answer → Half
  | .performed v => v
  | .refused _ => 0#16

/-- `MemRead(F, i, 1)` (R23): a constant at the fixed-template positions, a register at 3 to 8, and
nothing at 10 to 15 (R22). -/
def FrameSlot.readByte (f : FrameSlot) (i : Nibble) : Option Byte :=
  match template i with
  | some c => some c
  | none =>
    match i.toNat with
    | 3 => some f.commandId
    | 4 => some f.feedbackFlag
    | 5 => some f.paramHi
    | 6 => some f.paramLo
    | 7 => some f.checksumHi
    | 8 => some f.checksumLo
    | _ => none

/-- `MemWrite(F, i, 1, v)` (R23), defined for positions 3 to 8. No rule writes another position; there
the slot is left as it is (notes/assumptions/7.md). -/
def FrameSlot.writeByte (f : FrameSlot) (i : Nibble) (v : Byte) : FrameSlot :=
  match i.toNat with
  | 3 => { f with commandId := v }
  | 4 => { f with feedbackFlag := v }
  | 5 => { f with paramHi := v }
  | 6 => { f with paramLo := v }
  | 7 => { f with checksumHi := v }
  | 8 => { f with checksumLo := v }
  | _ => f

/-- `{F.buf[5], F.buf[6]}`: the 16-bit param of the slot (R24). -/
def FrameSlot.param (f : FrameSlot) : Half := joinBytes f.paramHi f.paramLo

/-- `{F.buf[7], F.buf[8]}`: the checksum stored in the slot (R25). -/
def FrameSlot.storedChecksum (f : FrameSlot) : Half := joinBytes f.checksumHi f.checksumLo

/-- The reset pin (R90): both slots go to the state of R20, with the payload this reset leaves. What
the host issues afterwards is unchanged. -/
def State.assertReset (s : State) (payload : ResetPayload) : State :=
  State.resetWith payload s.inputs

end Sys2Proof.Machine
end

