-- ==== Sys2Proof/Machine/Flags.lean ====
section
/-! DEFINITION. The checksum generator (R47, R50) and the validity predicate (R71). The block has no
flags and no condition codes: `valid` and `completed` are results that an operation returns, stored
nowhere (R18); `completed` is computed with the scanner in Machine/Receive.lean. -/

namespace Sys2Proof.Machine

/-- The exact sum of six unsigned bytes (R47). -/
def sumBytes (b1 b2 b3 b4 b5 b6 : Byte) : Nat :=
  b1.toNat + b2.toNat + b3.toNat + b4.toNat + b5.toNat + b6.toNat

/-- `cksum16` (R47): the two's complement, modulo 65536, of the sum of six bytes. The narrowing to 16
bits is the outer `mod 65536`. -/
def cksum16 (b1 b2 b3 b4 b5 b6 : Byte) : Half :=
  BitVec.ofNat 16 (65536 - sumBytes b1 b2 b3 b4 b5 b6 % 65536)

/-- `frame_ck(F)` (R50): the checksum over positions 1 to 6, the constants of positions 1 and 2
included. -/
def FrameSlot.frameCk (f : FrameSlot) : Half :=
  cksum16 VERSION LENGTH f.commandId f.feedbackFlag f.paramHi f.paramLo

/-- The validity predicate (R71): a short frame by its terminal byte, a long frame by its checksum,
and no frame is not valid. -/
def FrameSlot.isValid (f : FrameSlot) : Bool :=
  if f.len = 8#4 then decide (f.checksumHi = END)
  else if f.len = 10#4 then decide (f.storedChecksum = f.frameCk)
  else false

end Sys2Proof.Machine
end

