-- ==== Sys2Proof/Machine/Encode.lean ====
section
/-! DEFINITION. The frame encoder: `SET` (R53, R55). -/

namespace Sys2Proof.Machine

/-- The long-form frame of R53 in a slot: the four payload bytes, the checksum over them and the two
constants, and the length 10. `pos` stays as it was (R53, D10), and no operand is inspected (R55). -/
def FrameSlot.encodeFrame (f : FrameSlot) (cmd : Byte) (param : Half) (fb : Bool) : FrameSlot :=
  let ck := cksum16 VERSION LENGTH cmd (feedbackByte fb) (highByte param) (lowByte param)
  { commandId := cmd
    feedbackFlag := feedbackByte fb
    paramHi := highByte param
    paramLo := lowByte param
    checksumHi := highByte ck
    checksumLo := lowByte ck
    len := 10#4
    pos := f.pos }

/-- `SET s, cmd, param, fb` (R53); it answers `val = 0` (R43). -/
def execSet (sl : SlotId) (cmd : Byte) (param : Half) (fb : Bool) (s : State) :
    Host.Outcome State Fault Refusal :=
  .next ((s.setSlot sl ((s.slot sl).encodeFrame cmd param fb)).answered 0#16)

end Sys2Proof.Machine
end

