-- ==== Sys2Proof/Machine/Read.lean ====
section
/-! DEFINITION. The validity predicate and the seven readers (R71 to R80). None writes a slot. -/

namespace Sys2Proof.Machine

/-- `VALID s` (R71). -/
def execValid (sl : SlotId) (s : State) : Host.Outcome State Fault Refusal :=
  .next (s.answered (bitResult (s.slot sl).isValid))

/-- `GETLEN s` (R73). -/
def execGetlen (sl : SlotId) (s : State) : Host.Outcome State Fault Refusal :=
  .next (s.answered (lenResult (s.slot sl).len))

/-- `GETBYTE s, i` (R74): the raw buffer byte whatever `len` is, refused where no byte is. -/
def execGetbyte (sl : SlotId) (i : Nibble) (s : State) : Host.Outcome State Fault Refusal :=
  match (s.slot sl).readByte i with
  | some v => .next (s.answered (byteResult v))
  | none => .next (s.refuse .badIndex)

/-- `GETCMD s` (R75): `F.buf[3]`. -/
def execGetcmd (sl : SlotId) (s : State) : Host.Outcome State Fault Refusal :=
  .next (s.answered (byteResult (s.slot sl).commandId))

/-- `GETFB s` (R76): `F.buf[4]`, the whole byte. -/
def execGetfb (sl : SlotId) (s : State) : Host.Outcome State Fault Refusal :=
  .next (s.answered (byteResult (s.slot sl).feedbackFlag))

/-- `GETPARAM s` (R77): `{F.buf[5], F.buf[6]}`. -/
def execGetparam (sl : SlotId) (s : State) : Host.Outcome State Fault Refusal :=
  .next (s.answered (s.slot sl).param)

/-- `GETPHI s` (R78): `F.buf[5]`. -/
def execGetphi (sl : SlotId) (s : State) : Host.Outcome State Fault Refusal :=
  .next (s.answered (byteResult (s.slot sl).paramHi))

/-- `GETPLO s` (R79): `F.buf[6]`. -/
def execGetplo (sl : SlotId) (s : State) : Host.Outcome State Fault Refusal :=
  .next (s.answered (byteResult (s.slot sl).paramLo))

end Sys2Proof.Machine
end

