-- ==== Sys2Proof/Machine/Receive.lean ====
section
/-! DEFINITION. The resynchronizing frame decoder: `RECV` (R57 to R63). -/

namespace Sys2Proof.Machine

/-- Normalisation (R58): a position outside 0 to 9 is treated as 0. -/
def normalisePos (pos : Nibble) : Nibble := if pos.toNat ≤ 9 then pos else 0#4

/-- Completion of the long form (R62). -/
def FrameSlot.completeLong (f : FrameSlot) : FrameSlot × Bool :=
  ({ f with len := 10#4, pos := 0#4 }, true)

/-- Completion of the short form (R62). -/
def FrameSlot.completeShort (f : FrameSlot) : FrameSlot × Bool :=
  ({ f with len := 8#4, pos := 0#4 }, true)

/-- The scanner goes to position `p`; the byte completed no frame. -/
def FrameSlot.goTo (f : FrameSlot) (p : Nibble) : FrameSlot × Bool := ({ f with pos := p }, false)

/-- A fixed-template position `p`, whose constant is `c` (R59). The order of the tests is fixed: the
match, then the start byte, then discard. Nothing is stored. -/
def FrameSlot.receiveTemplate (f : FrameSlot) (p : Nibble) (c b : Byte) : FrameSlot × Bool :=
  if b = c then (if p = 9#4 then f.completeLong else f.goTo (p + 1#4))
  else if b = START then f.goTo 1#4
  else f.goTo 0#4

/-- Position 7 (R60): the byte is stored, and the end constant completes the short form. -/
def FrameSlot.receiveAtSeven (f : FrameSlot) (b : Byte) : FrameSlot × Bool :=
  let g := f.writeByte 7#4 b
  if b = END then g.completeShort else g.goTo 8#4

/-- A buffered position: 3, 4, 5, 6 or 8 (R61). The byte is stored untested. -/
def FrameSlot.receiveBuffered (f : FrameSlot) (p : Nibble) (b : Byte) : FrameSlot × Bool :=
  (f.writeByte p b).goTo (p + 1#4)

/-- `RECV` on a slot (R63): the slot afterwards and `completed`. -/
def FrameSlot.receive (f : FrameSlot) (b : Byte) : FrameSlot × Bool :=
  let p := normalisePos f.pos
  match template p with
  | some c => f.receiveTemplate p c b
  | none => if p = 7#4 then f.receiveAtSeven b else f.receiveBuffered p b

/-- `RECV s, b` (R57); it answers `completed` (R43). -/
def execRecv (sl : SlotId) (b : Byte) (s : State) : Host.Outcome State Fault Refusal :=
  let r := (s.slot sl).receive b
  .next ((s.setSlot sl r.1).answered (bitResult r.2))

end Sys2Proof.Machine
end

