-- ==== Sys2Proof/Machine/Dispatch.lean ====
section
/-! DEFINITION. One arm per operation of R8. -/

namespace Sys2Proof.Machine

/-- The meaning of each operation. -/
def exec (i : Instr) (s : State) : Host.Outcome State Fault Refusal :=
  match i with
  | .set sl cmd param fb => Sys2Proof.Machine.execSet sl cmd param fb s
  | .recv sl b => Sys2Proof.Machine.execRecv sl b s
  | .valid sl => Sys2Proof.Machine.execValid sl s
  | .getlen sl => Sys2Proof.Machine.execGetlen sl s
  | .getbyte sl idx => Sys2Proof.Machine.execGetbyte sl idx s
  | .getcmd sl => Sys2Proof.Machine.execGetcmd sl s
  | .getfb sl => Sys2Proof.Machine.execGetfb sl s
  | .getparam sl => Sys2Proof.Machine.execGetparam sl s
  | .getphi sl => Sys2Proof.Machine.execGetphi sl s
  | .getplo sl => Sys2Proof.Machine.execGetplo sl s

end Sys2Proof.Machine
end

