-- ==== Sys2Proof/Machine/HostPort.lean ====
section
/-! DEFINITION. The command port: one command word, decoded and performed or refused (R41 to R44), and
one input of the outside world. -/

namespace Sys2Proof.Machine

/-- One command word (R41): the operation it spells is performed, and a word that spells none is
refused with its reason (R44, R82). -/
def performWord (w : Word) (s : State) : Host.Outcome State Fault Refusal :=
  match decode w with
  | .ok i => exec i s
  | .error why => .next (s.refuse why)

/-- One input of the outside world, already taken from the list: a command word, or the reset pin
(R90). -/
def takeInput (input : HostInput) (s : State) : Host.Outcome State Fault Refusal :=
  match input with
  | .command w => performWord w s
  | .reset payload => .next (s.assertReset payload)

/-- The next thing the outside world does, with the rest left to come. Where it does nothing the block
does nothing: nothing inside it moves between operations (R6, notes/assumptions/3.md). -/
def runNextInput (s : State) : Host.Outcome State Fault Refusal :=
  match s.inputs with
  | [] => .next s
  | input :: rest => takeInput input { s with inputs := rest }

/-- The state in which the host issues command word `w` before anything else. -/
def issueFirst (w : Word) (s : State) : State := { s with inputs := .command w :: s.inputs }

end Sys2Proof.Machine
end

