-- ==== Sys2Proof/Machine/Step.lean ====
section
/-! DEFINITION. One step of the machine: one operation is one step (R29, R100). -/

namespace Sys2Proof.Machine

/-- One step: the next input of the outside world. -/
def step (s : State) : Host.Outcome State Fault Refusal := runNextInput s

/-- `s` with the command word given by the opcode table's numbering issued next. The block fetches no
instructions (R33): its commands come from the host, so this stands for the host's issuing of the
word (notes/assumptions/2.md). -/
def State.withFetchWord (s : State) (nbits w : Nat) : State := issueFirst (tableWord nbits w) s

end Sys2Proof.Machine
end

