-- ==== Sys2Proof/Safety.lean ====
section
/-! DEFINITION. The terms in which claims are stated: what a run observes, what an operation may
change, the invariant of the state, and the frames of R37. No step of this machine stops, so a safe
run is one whose states keep `State.wf`. -/

namespace Sys2Proof.Machine

/-- The form of a slot that every run keeps: `len` is 0, 8 or 10 (R14) and `pos` is in 0 to 9
(R16). -/
abbrev FrameSlot.wf (f : FrameSlot) : Prop :=
  (f.len = 0#4 ∨ f.len = 8#4 ∨ f.len = 10#4) ∧ f.pos.toNat ≤ 9

/-- Both slots have the form of R14 and R16. -/
abbrev State.wf (s : State) : Prop := s.tx.wf ∧ s.rx.wf

/-- An open position (R66): 0, 1, 2, 9 or out of range. There a start byte leads to position 1. -/
abbrev FrameSlot.atOpenPos (f : FrameSlot) : Prop :=
  f.pos.toNat ≤ 2 ∨ 9 ≤ f.pos.toNat

/-- Going from `s` to `t` gives slot `sl` the contents `f` and leaves the other slot and the inputs
still to come as they were. -/
def UpdatesSlot (s t : State) (sl : SlotId) (f : FrameSlot) : Prop :=
  t.slot sl = f ∧ (∀ o, o ≠ sl → t.slot o = s.slot o) ∧ t.inputs = s.inputs

/-- Going from `s` to `t` changes neither slot nor the inputs still to come. -/
def SameSlots (s t : State) : Prop := t.tx = s.tx ∧ t.rx = s.rx ∧ t.inputs = s.inputs

/-- The host issuing these operations, in this order (R31), each as its command word. -/
def commandInputs (is : List Instr) : List HostInput := is.map fun i => .command (encode i)

/-- The host feeding these bytes to `RECV` on one slot, in this order (R45, `FEED`). -/
def recvInputs (sl : SlotId) (bs : List Byte) : List HostInput :=
  commandInputs (bs.map fun b => .recv sl b)

/-- What `k` steps show from outside (R7): the answer after each step, and the state at the end. None
where a step stops, which no step does. -/
def trace : Nat → State → Option (List (Option Answer) × State)
  | 0, s => some ([], s)
  | k + 1, s =>
    match step s with
    | .next t => (trace k t).map fun r => (t.answer :: r.1, r.2)
    | .fault _ => none
    | .refused _ => none

/-- The scanner over a list of bytes: the slot afterwards, and the `completed` result of each byte. -/
def FrameSlot.feed : FrameSlot → List Byte → FrameSlot × List Bool
  | f, [] => (f, [])
  | f, b :: bs => (((f.receive b).1.feed bs).1, (f.receive b).2 :: ((f.receive b).1.feed bs).2)

/-- The bytes a slot offers for sending (R56): positions 0 to `len` - 1, ascending. -/
def FrameSlot.readOut (f : FrameSlot) : List Byte :=
  (List.range f.len.toNat).filterMap fun i => f.readByte (BitVec.ofNat 4 i)

/-- The part of a frame that the scanner has accepted so far: the buffer below the position the next byte
is for, and nothing where the position is 0 or out of range (R15, R58). -/
def FrameSlot.received (f : FrameSlot) : List Byte :=
  (List.range (normalisePos f.pos).toNat).filterMap fun i => f.readByte (BitVec.ofNat 4 i)

/-- The history a slot keeps of the bytes fed to it: at position `p` the last `p` of them are the part of a
frame it holds, and past position 7 the byte there did not end the frame (R60). -/
abbrev FrameSlot.tracks (f : FrameSlot) (fed : List Byte) : Prop :=
  f.received <:+ fed ∧ (8 ≤ (normalisePos f.pos).toNat → f.checksumHi ≠ END)

/-- The long form with its six variable bytes (R35). -/
def longFrame (c f h l x y : Byte) : List Byte :=
  [START, VERSION, LENGTH, c, f, h, l, x, y, END]

/-- The short form with its four variable bytes (R36). -/
def shortFrame (c f h l : Byte) : List Byte := [START, VERSION, LENGTH, c, f, h, l, END]

/-- The mask and match columns of R42's table, which the opcode table repeats. -/
def maskMatch : Op → Word × Word
  | .set => (0xF3000000#32, 0x10000000#32)
  | .recv => (0xF7FFFF00#32, 0x20000000#32)
  | .valid => (0xF7FFFFFF#32, 0x30000000#32)
  | .getlen => (0xF7FFFFFF#32, 0x40000000#32)
  | .getbyte => (0xF7FFFFF0#32, 0x50000000#32)
  | .getcmd => (0xF7FFFFFF#32, 0x60000000#32)
  | .getfb => (0xF7FFFFFF#32, 0x70000000#32)
  | .getparam => (0xF7FFFFFF#32, 0x80000000#32)
  | .getphi => (0xF7FFFFFF#32, 0x90000000#32)
  | .getplo => (0xF7FFFFFF#32, 0xA0000000#32)

end Sys2Proof.Machine
end

