-- ==== Sys2Proof/Certificates/Slice0/Obligations.lean ====
section
/-! DEFINITION. The statements about the Frame Codec, for the provers. A statement whose docstring
names a decision D<n> rests on a choice that 92_eei_decisions.md marks as the spec's own and not the
source document's; one that names a log entry rests on a choice of this model. -/

open Sys2Proof Sys2Proof.Machine

/-! ### Command words -/

/-- Decoding an encoded operation gives it back, for every operand value (R42; D12). The ill-formed
`GETBYTE` forms are included: their words spell `GETBYTE` (R44). -/
def Obligations.DecodeOfEncodeIsTheOperation : Prop :=
  ∀ i : Instr, decode (encode i) = .ok i

/-- Each operation has one command word: a word that decodes to an operation is the word the encoder
gives for it, so no bit of a word is dropped (R42; D12). -/
def Obligations.DecodedWordIsTheEncodedWord : Prop :=
  ∀ (w : Word) (i : Instr), decode w = .ok i → encode i = w

/-- A word spells the operation of a row of R42 exactly when `(w AND mask) == match` (R42; D12). -/
def Obligations.WordSpellsOperationIffMaskMatches : Prop :=
  ∀ (w : Word) (op : Op),
    (∃ i, decode w = .ok i ∧ i.op = op) ↔ w &&& (maskMatch op).1 = (maskMatch op).2

/-- When a word spells no operation and with which reason (R44, R82, R85; D13): `reserved_op` exactly
when `w[31:28]` is 0x0 or 0xB to 0xF, whatever the other bits are; `nonzero_reserved_bits` exactly when
the select names a row and a must-be-zero bit of that row is 1; never `bad_index`, which is a refusal
by value. -/
def Obligations.UndecodableWordReasons : Prop :=
  ∀ w : Word,
    (decode w = .error .reservedOp ↔
      (w.extractLsb' 28 4).toNat = 0 ∨ 11 ≤ (w.extractLsb' 28 4).toNat) ∧
    (decode w = .error .nonzeroReservedBits ↔
      ∃ op : Op, w &&& 0xF0000000#32 = (maskMatch op).2 ∧ w &&& (maskMatch op).1 ≠ (maskMatch op).2) ∧
    decode w ≠ .error .badIndex

/-- Words that the spec writes out with what they spell (the examples of R42 and the vectors V-X of
95_test_vectors.md). -/
def Obligations.SpecExampleWordsDecode : Prop :=
  decode 0x14060014#32 = .ok (.set .tx 0x06#8 0x0014#16 true) ∧
  decode 0x2800007E#32 = .ok (.recv .rx 0x7E#8) ∧
  decode 0x38000000#32 = .ok (.valid .rx) ∧
  decode 0x50000007#32 = .ok (.getbyte .tx 7#4) ∧
  decode 0xA8000000#32 = .ok (.getplo .rx) ∧
  decode 0x00000000#32 = .error .reservedOp ∧
  decode 0xF8000000#32 = .error .reservedOp ∧
  decode 0x11060014#32 = .error .nonzeroReservedBits ∧
  decode 0x50000017#32 = .error .nonzeroReservedBits

/-! ### The step -/

/-- When the next thing the host does is to issue a word that decodes to an operation, the step is that
operation, with the word taken from the inputs and nothing else around it. That the inputs stand in a
list is the model's choice (notes/assumptions/2.md). -/
def Obligations.StepPerformsTheDecodedOperation : Prop :=
  ∀ (s : State) (w : Word) (i : Instr) (rest : List HostInput),
    s.inputs = .command w :: rest → decode w = .ok i → step s = exec i { s with inputs := rest }

/-- A word that spells no operation is refused: no bit of either slot changes, the response is
`err = 1`, `val = 0`, and the next word is decoded afresh (R44, R82; D13). That the machine goes on with
a next state is notes/assumptions/5.md. -/
def Obligations.UndecodableWordIsRefusedWithoutEffect : Prop :=
  ∀ (s : State) (w : Word) (why : RefusedReason) (rest : List HostInput),
    s.inputs = .command w :: rest → decode w = .error why →
    ∃ t a, step s = .next t ∧ t.tx = s.tx ∧ t.rx = s.rx ∧ t.inputs = rest ∧
      t.answer = some a ∧ a = .refused why ∧ a.err = true ∧ a.val = 0#16

/-- Asserting the reset pin puts both slots in the reset state, whatever they held, with any payload
bytes (R20, R90; D11, D25). That a reset stands among the inputs and that no answer is pending after it
are the model's choices (notes/assumptions/2.md and 4.md). -/
def Obligations.ResetPinResetsBothSlots : Prop :=
  ∀ (s : State) (payload : ResetPayload) (rest : List HostInput),
    s.inputs = .reset payload :: rest →
    ∃ t, step s = .next t ∧ t.inputs = rest ∧ t.answer = none ∧
      t.tx = { commandId := payload.tx.p3, feedbackFlag := payload.tx.p4, paramHi := payload.tx.p5,
               paramLo := payload.tx.p6, checksumHi := payload.tx.p7, checksumLo := payload.tx.p8,
               len := 0#4, pos := 0#4 } ∧
      t.rx = { commandId := payload.rx.p3, feedbackFlag := payload.rx.p4, paramHi := payload.rx.p5,
               paramLo := payload.rx.p6, checksumHi := payload.rx.p7, checksumLo := payload.rx.p8,
               len := 0#4, pos := 0#4 }

/-- When the host does nothing, a step changes nothing: nothing inside the block moves between
operations (R6). That such a step is a next state is the model's reading (notes/assumptions/3.md). -/
def Obligations.IdleHostLeavesEverythingUnchanged : Prop :=
  ∀ s : State, s.inputs = [] → step s = .next s

/-- Every step of every state answers a next state and takes exactly one input, if there is one (R81,
R101): no operation hangs, waits or leaves the block stuck. The list of inputs is the model's
(notes/assumptions/2.md and 3.md). -/
def Obligations.EveryStepAnswersNextAndTakesOneInput : Prop :=
  ∀ s : State, ∃ t, step s = .next t ∧ t.inputs = s.inputs.tail

/-- No operation raises an exception on its data. Each completes and is answered, and the only one that
can be refused is a `GETBYTE` whose index is outside 0 to 9 (R81, R82; D12, D14). -/
def Obligations.OnlyBadIndexIsRefusedByValue : Prop :=
  ∀ (i : Instr) (s : State), ∃ t a, exec i s = .next t ∧ t.answer = some a ∧
    (a.err = true ↔ ∃ sl idx, i = .getbyte sl idx ∧ 9 < idx.toNat)

/-! ### Reset and the invariant -/

/-- After a reset, whatever the payload bytes are: `pos` and `len` are 0, `GETLEN` answers 0, `VALID`
answers 0 and `GETBYTE` answers the four hardwired constants (R20, R98; D5, D8, D11). -/
def Obligations.AfterResetNoFrameIsHeld : Prop :=
  ∀ (payload : ResetPayload) (inputs : List HostInput) (sl : SlotId),
    ((State.resetWith payload inputs).slot sl).pos = 0#4 ∧
    ((State.resetWith payload inputs).slot sl).len = 0#4 ∧
    ∀ i v, (i, v) ∈ [(Instr.getlen sl, 0#16), (.valid sl, 0#16), (.getbyte sl 0#4, 0x7E#16),
        (.getbyte sl 1#4, 0xFF#16), (.getbyte sl 2#4, 0x06#16), (.getbyte sl 9#4, 0xEF#16)] →
      exec i (State.resetWith payload inputs) =
        .next { State.resetWith payload inputs with answer := some (.performed v) }

/-- The reset state of the machine, and the state after a reset with any payload, have the form of R14
and R16. -/
def Obligations.ResetHasLegalLengthAndPosition : Prop :=
  State.reset.wf ∧ ∀ payload inputs, (State.resetWith payload inputs).wf

/-- Every step keeps `len` in 0, 8, 10 and `pos` in 0 to 9 in both slots (R14, R16; D3, D19). -/
def Obligations.StepKeepsLegalLengthAndPosition : Prop :=
  ∀ s t : State, s.wf → step s = .next t → t.wf

/-! ### The frame buffer -/

/-- Positions 0, 1, 2 and 9 read as the constants in every slot (R11; D5), and a byte written to
position 3 to 8 is read back there and changes no other position, nor `len` nor `pos` (R12, R23). -/
def Obligations.BufferWriteIsReadBackAlone : Prop :=
  ∀ (f : FrameSlot) (i j : Nibble) (v : Byte), 3 ≤ i.toNat → i.toNat ≤ 8 →
    (f.writeByte i v).readByte j = (if j = i then some v else f.readByte j) ∧
    (f.writeByte i v).len = f.len ∧ (f.writeByte i v).pos = f.pos ∧
    f.readByte 0#4 = some 0x7E#8 ∧ f.readByte 1#4 = some 0xFF#8 ∧ f.readByte 2#4 = some 0x06#8 ∧
    f.readByte 9#4 = some 0xEF#8

/-- The 16-bit param is stored big-endian (R24): `SET` puts `param[15:8]` in position 5 and
`param[7:0]` in position 6, and the param of a slot is `{F.buf[5], F.buf[6]}`. -/
def Obligations.ParamIsStoredBigEndian : Prop :=
  ∀ (f : FrameSlot) (cmd : Byte) (param : Half) (fb : Bool),
    (f.encodeFrame cmd param fb).readByte 5#4 = some (param.extractLsb' 8 8) ∧
    (f.encodeFrame cmd param fb).readByte 6#4 = some (param.extractLsb' 0 8) ∧
    ∀ hi lo, f.readByte 5#4 = some hi → f.readByte 6#4 = some lo →
      f.param.toNat = hi.toNat * 256 + lo.toNat

/-- The 16-bit checksum is stored big-endian (R25): `SET` puts `ck[15:8]` in position 7 and `ck[7:0]`
in position 8, and the stored checksum is `{F.buf[7], F.buf[8]}`. -/
def Obligations.ChecksumIsStoredBigEndian : Prop :=
  ∀ (f : FrameSlot) (cmd : Byte) (param : Half) (fb : Bool),
    let ck := (f.encodeFrame cmd param fb).frameCk
    (f.encodeFrame cmd param fb).readByte 7#4 = some (ck.extractLsb' 8 8) ∧
    (f.encodeFrame cmd param fb).readByte 8#4 = some (ck.extractLsb' 0 8) ∧
    ∀ hi lo, f.readByte 7#4 = some hi → f.readByte 8#4 = some lo →
      f.storedChecksum.toNat = hi.toNat * 256 + lo.toNat

/-- The bytes a slot offers for sending (R56; D24): as many as `len` says, at ascending positions. The
premise takes in the lengths 0, 8 and 10 of R14. -/
def Obligations.ReadOutIsTheFirstLenPositions : Prop :=
  ∀ f : FrameSlot, f.len.toNat ≤ 10 →
    f.readOut.length = f.len.toNat ∧
    ∀ i, i < f.len.toNat → f.readOut[i]? = f.readByte (BitVec.ofNat 4 i)

/-! ### The checksum generator -/

/-- `cksum16` is the two's complement, modulo 65536, of the sum of its six bytes, taken modulo 65536; and
the rule's worked example (R47). -/
def Obligations.CksumIsNegatedSumOfSixBytes : Prop :=
  (∀ b1 b2 b3 b4 b5 b6 : Byte,
    let sum := (b1.toNat + b2.toNat + b3.toNat + b4.toNat + b5.toNat + b6.toNat) % 65536
    (cksum16 b1 b2 b3 b4 b5 b6).toNat = (65536 - sum) % 65536) ∧
  cksum16 0xFF#8 0x06#8 0x06#8 0x01#8 0x00#8 0x14#8 = 0xFEE0#16

/-- The equivalent forms of the result (R48, R49): the sum is at most 1530; the result is `0 - sum`
and `~sum + 1` in 16 bits; and it is the only 16-bit value that brings the sum to 0 modulo 65536. -/
def Obligations.CksumIsTheUniqueAdditiveInverse : Prop :=
  ∀ b1 b2 b3 b4 b5 b6 : Byte,
    let sum := b1.toNat + b2.toNat + b3.toNat + b4.toNat + b5.toNat + b6.toNat
    sum ≤ 1530 ∧
    cksum16 b1 b2 b3 b4 b5 b6 = 0#16 - BitVec.ofNat 16 sum ∧
    cksum16 b1 b2 b3 b4 b5 b6 = ~~~ BitVec.ofNat 16 sum + 1#16 ∧
    ∀ v : Half, (sum + v.toNat) % 65536 = 0 ↔ v = cksum16 b1 b2 b3 b4 b5 b6

/-- The range of a frame's checksum (R50, R51; D5, D20): between 0xFAFF and 0xFEFB, and from 0xFBFD up
where the feedback byte is 0x00 or 0x01. Its high byte is one of 0xFA to 0xFE, so never the end
constant nor the start constant. -/
def Obligations.FrameChecksumRange : Prop :=
  ∀ f : FrameSlot,
    0xFAFF ≤ f.frameCk.toNat ∧ f.frameCk.toNat ≤ 0xFEFB ∧
    (f.feedbackFlag.toNat ≤ 1 → 0xFBFD ≤ f.frameCk.toNat) ∧
    0xFA ≤ (highByte f.frameCk).toNat ∧ (highByte f.frameCk).toNat ≤ 0xFE ∧
    highByte f.frameCk ≠ 0xEF#8 ∧ highByte f.frameCk ≠ 0x7E#8

/-! ### `SET` -/

/-- `SET` completes on every operand in every state, writes the six registers and `len`, leaves `pos`
and the other slot alone, and answers `val = 0` (R53, R43; D9, D10, D12). The bytes are given by
arithmetic on the operands: the checksum is 65536 less the sum of the six bytes. -/
def Obligations.SetAssemblesALongFrame : Prop :=
  ∀ (sl : SlotId) (cmd : Byte) (param : Half) (fb : Bool) (s : State),
    let fbv := if fb then 1 else 0
    let ck := 65536 - (0xFF + 0x06 + cmd.toNat + fbv + param.toNat / 256 + param.toNat % 256)
    ∃ t, exec (.set sl cmd param fb) s = .next t ∧
      UpdatesSlot s t sl
        { commandId := cmd
          feedbackFlag := BitVec.ofNat 8 fbv
          paramHi := BitVec.ofNat 8 (param.toNat / 256)
          paramLo := BitVec.ofNat 8 (param.toNat % 256)
          checksumHi := BitVec.ofNat 8 (ck / 256)
          checksumLo := BitVec.ofNat 8 (ck % 256)
          len := 10#4
          pos := (s.slot sl).pos } ∧
      t.answer = some (.performed 0#16)

/-- After `SET` the host reads back what it gave (R54; D9, D12, D18): eighteen operations, issued as
command words, from any state. -/
def Obligations.SetIsReadBackByEveryReader : Prop :=
  ∀ (sl : SlotId) (cmd : Byte) (param : Half) (fb : Bool) (s : State),
    let fbByte : Half := if fb then 1#16 else 0#16
    let ck := 65536 - (0xFF + 0x06 + cmd.toNat + fbByte.toNat + param.toNat / 256 + param.toNat % 256)
    ∃ t, trace 18 { s with inputs := commandInputs [.set sl cmd param fb, .getlen sl, .valid sl,
          .getcmd sl, .getfb sl, .getparam sl, .getphi sl, .getplo sl, .getbyte sl 0#4,
          .getbyte sl 1#4, .getbyte sl 2#4, .getbyte sl 3#4, .getbyte sl 4#4, .getbyte sl 5#4,
          .getbyte sl 6#4, .getbyte sl 7#4, .getbyte sl 8#4, .getbyte sl 9#4] } =
        some ([0#16, 10#16, 1#16, BitVec.ofNat 16 cmd.toNat, fbByte, param,
          BitVec.ofNat 16 (param.toNat / 256), BitVec.ofNat 16 (param.toNat % 256), 0x7E#16, 0xFF#16,
          0x06#16, BitVec.ofNat 16 cmd.toNat, fbByte, BitVec.ofNat 16 (param.toNat / 256),
          BitVec.ofNat 16 (param.toNat % 256), BitVec.ofNat 16 (ck / 256), BitVec.ofNat 16 (ck % 256),
          0xEF#16].map fun v => some (.performed v), t)

/-- `SET` with the same operands twice changes nothing further (R29; D15). -/
def Obligations.SetIsIdempotent : Prop :=
  ∀ (sl : SlotId) (cmd : Byte) (param : Half) (fb : Bool) (s t : State),
    exec (.set sl cmd param fb) s = .next t → exec (.set sl cmd param fb) t = .next t

/-! ### `RECV`, position by position. Together these take in all sixteen values of `pos`. -/

/-- `RECV` at the header positions 0, 1 and 2 (R59; D12, D21): a byte that matches the constant
advances, a start byte that does not match restarts at 1, any other byte goes to 0. Nothing is stored,
`len` and the other slot stay, and the answer is 0. -/
def Obligations.RecvAtHeaderPositionsScansTheTemplate : Prop :=
  ∀ (sl : SlotId) (b : Byte) (s : State) (p : Nibble) (c : Byte),
    (p, c) ∈ [(0#4, 0x7E#8), (1#4, 0xFF#8), (2#4, 0x06#8)] → (s.slot sl).pos = p →
    ∃ t, exec (.recv sl b) s = .next t ∧
      UpdatesSlot s t sl
        { s.slot sl with pos := if b = c then p + 1#4 else if b = 0x7E#8 then 1#4 else 0#4 } ∧
      t.answer = some (.performed 0#16)

/-- `RECV` at the buffered positions 3, 4, 5, 6 and 8 stores the byte there untested, advances, and
answers 0 (R61; D12). -/
def Obligations.RecvAtBufferedPositionsStoresVerbatim : Prop :=
  ∀ (sl : SlotId) (b : Byte) (s : State) (p : Nibble) (f : FrameSlot),
    (p, f) ∈ [(3#4, { s.slot sl with commandId := b }), (4#4, { s.slot sl with feedbackFlag := b }),
        (5#4, { s.slot sl with paramHi := b }), (6#4, { s.slot sl with paramLo := b }),
        (8#4, { s.slot sl with checksumLo := b })] → (s.slot sl).pos = p →
    ∃ t, exec (.recv sl b) s = .next t ∧ UpdatesSlot s t sl { f with pos := p + 1#4 } ∧
      t.answer = some (.performed 0#16)

/-- `RECV` at position 7 stores the byte; the end constant completes the short form with `len = 8`,
`pos = 0` and the answer 1, any other byte goes on to position 8 with the answer 0 (R60, R62; D3, D6,
D12). -/
def Obligations.RecvAtPositionSevenDecidesTheForm : Prop :=
  ∀ (sl : SlotId) (b : Byte) (s : State), (s.slot sl).pos = 7#4 →
    ∃ t, exec (.recv sl b) s = .next t ∧
      UpdatesSlot s t sl
        { s.slot sl with
          checksumHi := b
          len := if b = 0xEF#8 then 8#4 else (s.slot sl).len
          pos := if b = 0xEF#8 then 0#4 else 8#4 } ∧
      t.answer = some (.performed (if b = 0xEF#8 then 1#16 else 0#16))

/-- `RECV` at position 9: the end constant completes the long form with `len = 10`, `pos = 0` and the
answer 1; a start byte restarts at 1 and any other byte goes to 0, with the answer 0. Nothing is stored
(R59, R62; D3, D7, D12, D21). -/
def Obligations.RecvAtPositionNineCompletesTheLongForm : Prop :=
  ∀ (sl : SlotId) (b : Byte) (s : State), (s.slot sl).pos = 9#4 →
    ∃ t, exec (.recv sl b) s = .next t ∧
      UpdatesSlot s t sl
        { s.slot sl with
          len := if b = 0xEF#8 then 10#4 else (s.slot sl).len
          pos := if b = 0x7E#8 then 1#4 else 0#4 } ∧
      t.answer = some (.performed (if b = 0xEF#8 then 1#16 else 0#16))

/-- `RECV` at a position out of range examines the byte under the position-0 rule in the same call
(R58; D12). -/
def Obligations.RecvOutOfRangeStartsAfresh : Prop :=
  ∀ (sl : SlotId) (b : Byte) (s : State), 9 < (s.slot sl).pos.toNat →
    ∃ t, exec (.recv sl b) s = .next t ∧
      UpdatesSlot s t sl { s.slot sl with pos := if b = 0x7E#8 then 1#4 else 0#4 } ∧
      t.answer = some (.performed 0#16)

/-- Normalisation (R58): the scanner works with `p = F.pos` where `F.pos <= 9` and with `p = 0` where it
is 10 to 15, on the same byte. -/
def Obligations.ScannerNormalisesPosition : Prop :=
  ∀ (f : FrameSlot) (b : Byte),
    f.receive b = ({ f with pos := if f.pos.toNat ≤ 9 then f.pos else 0#4 } : FrameSlot).receive b

/-- The buffered positions of the scanner (R61): `F.buf[p] <- b ; F.pos <- p + 1 ; return 0` for every
byte. -/
def Obligations.ScannerBuffersWithoutTest : Prop :=
  ∀ (f : FrameSlot) (b : Byte) (p : Nibble),
    p.toNat = 3 ∨ p.toNat = 4 ∨ p.toNat = 5 ∨ p.toNat = 6 ∨ p.toNat = 8 → f.pos = p →
    (f.receive b).2 = false ∧ (f.receive b).1.pos.toNat = p.toNat + 1 ∧
    (f.receive b).1.len = f.len ∧
    ∀ j, (f.receive b).1.readByte j = if j = p then some b else f.readByte j

/-- `completed` is 1 in two cases and in no other: the end constant at position 7 (then `len` is 8) and
at position 9 (then `len` is 10). A `RECV` that answers 0 leaves `len` as it was (R62, R64; D4, D7,
D12). -/
def Obligations.RecvCompletesOnlyAtSevenOrNine : Prop :=
  ∀ (sl : SlotId) (b : Byte) (s t : State), exec (.recv sl b) s = .next t →
    (t.answer = some (.performed 1#16) ↔
      b = 0xEF#8 ∧ ((s.slot sl).pos = 7#4 ∨ (s.slot sl).pos = 9#4)) ∧
    (t.answer ≠ some (.performed 1#16) →
      t.answer = some (.performed 0#16) ∧ (t.slot sl).len = (s.slot sl).len) ∧
    (t.answer = some (.performed 1#16) →
      (t.slot sl).len = if (s.slot sl).pos = 7#4 then 8#4 else 10#4)

/-- Right after a completion, `VALID` answers 1 for a short frame, and for a long frame exactly when the
received checksum and the six summed bytes come to 0 modulo 65536 (R52, R72; D6, D7, D12). -/
def Obligations.ValidRightAfterCompletion : Prop :=
  ∀ (sl : SlotId) (b : Byte) (s t : State), exec (.recv sl b) s = .next t →
    t.answer = some (.performed 1#16) →
    ∃ u, exec (.valid sl) t = .next u ∧
      ((s.slot sl).pos = 7#4 → u.answer = some (.performed 1#16)) ∧
      ((s.slot sl).pos = 9#4 →
        (u.answer = some (.performed 1#16) ↔
          (0xFF + 0x06 + (t.slot sl).commandId.toNat + (t.slot sl).feedbackFlag.toNat +
            (t.slot sl).paramHi.toNat + (t.slot sl).paramLo.toNat +
            (t.slot sl).checksumHi.toNat * 256 + (t.slot sl).checksumLo.toNat) % 65536 = 0))

/-! ### Streams of bytes -/

/-- Idle noise (R65; D11, D12): from position 0 or out of range, bytes without a start byte are all
answered 0 and change nothing, except that a position out of range becomes 0. -/
def Obligations.NoiseWithoutStartByteChangesNothing : Prop :=
  ∀ (s : State) (sl : SlotId) (bs : List Byte),
    (s.slot sl).pos = 0#4 ∨ 9 < (s.slot sl).pos.toNat → 0x7E#8 ∉ bs →
    ∃ t, trace bs.length { s with inputs := recvInputs sl bs } =
        some (List.replicate bs.length (some (.performed 0#16)), t) ∧ t.inputs = [] ∧
      t.slot sl = { s.slot sl with pos := if bs = [] then (s.slot sl).pos else 0#4 } ∧
      ∀ o, o ≠ sl → t.slot o = s.slot o

/-- Resynchronization on a short frame (R66, R36; D3, D6, D12): from any open position, the eight bytes
give seven answers 0 and then 1, and the slot holds the frame; position 8 keeps its old byte. -/
def Obligations.ShortFrameIsReceivedFromOpenPosition : Prop :=
  ∀ (s : State) (sl : SlotId) (c f h l : Byte), (s.slot sl).atOpenPos →
    ∃ t, trace 8 { s with inputs := recvInputs sl [0x7E#8, 0xFF#8, 0x06#8, c, f, h, l, 0xEF#8] } =
        some (List.replicate 7 (some (.performed 0#16)) ++ [some (.performed 1#16)], t) ∧
      t.inputs = [] ∧
      t.slot sl =
        { commandId := c, feedbackFlag := f, paramHi := h, paramLo := l, checksumHi := 0xEF#8,
          checksumLo := (s.slot sl).checksumLo, len := 8#4, pos := 0#4 } ∧
      ∀ o, o ≠ sl → t.slot o = s.slot o

/-- Resynchronization on a long frame (R66, R37; D3, D7, D12): from any open position, the ten bytes of a
well-formed long frame, whatever its checksum, give nine answers 0 and then 1, and the slot holds the
frame. -/
def Obligations.LongFrameIsReceivedFromOpenPosition : Prop :=
  ∀ (s : State) (sl : SlotId) (c f h l x y : Byte), (s.slot sl).atOpenPos → x ≠ 0xEF#8 →
    let bytes := [0x7E#8, 0xFF#8, 0x06#8, c, f, h, l, x, y, 0xEF#8]
    ∃ t, trace 10 { s with inputs := recvInputs sl bytes } =
        some (List.replicate 9 (some (.performed 0#16)) ++ [some (.performed 1#16)], t) ∧
      t.inputs = [] ∧
      t.slot sl =
        { commandId := c, feedbackFlag := f, paramHi := h, paramLo := l, checksumHi := x,
          checksumLo := y, len := 10#4, pos := 0#4 } ∧
      ∀ o, o ≠ sl → t.slot o = s.slot o

/-- Every completion is earned (R68; D3, D12): feed any bytes to a slot at position 0, and if the last
answer is 1, then the bytes end with a whole well-formed frame, short or long, and the slot holds
exactly that frame. -/
def Obligations.CompletionMeansAFrameWasJustReceived : Prop :=
  ∀ (s t : State) (sl : SlotId) (bs : List Byte) (answers : List (Option Answer)),
    (s.slot sl).pos = 0#4 →
    trace bs.length { s with inputs := recvInputs sl bs } =
      some (answers ++ [some (.performed 1#16)], t) →
    (∃ pre c f h l, bs = pre ++ [0x7E#8, 0xFF#8, 0x06#8, c, f, h, l, 0xEF#8] ∧
      ∃ y, t.slot sl =
        { commandId := c, feedbackFlag := f, paramHi := h, paramLo := l, checksumHi := 0xEF#8,
          checksumLo := y, len := 8#4, pos := 0#4 }) ∨
    (∃ pre c f h l x y, x ≠ 0xEF#8 ∧
      bs = pre ++ [0x7E#8, 0xFF#8, 0x06#8, c, f, h, l, x, y, 0xEF#8] ∧
      t.slot sl =
        { commandId := c, feedbackFlag := f, paramHi := h, paramLo := l, checksumHi := x,
          checksumLo := y, len := 10#4, pos := 0#4 })

/-- The history invariant behind R68, kept by every step that is a `RECV` (D3, D12): if the last bytes fed
to the slot are the part of a frame it holds, then so they are with the new byte; and a step that answers
1 has just received a whole frame, the slot's own read-out, of length 8 or 10. The other slot keeps its
history. That the word stands first among the inputs is notes/assumptions/2.md. -/
def Obligations.RecvStepKeepsTheFedBytesInTheSlot : Prop :=
  ∀ (s t : State) (sl : SlotId) (b : Byte) (rest : List HostInput) (fed : List Byte),
    s.inputs = .command (encode (.recv sl b)) :: rest → (s.slot sl).tracks fed →
    step s = .next t →
    (t.slot sl).tracks (fed ++ [b]) ∧
    (t.answer = some (.performed 1#16) →
      (t.slot sl).readOut <:+ fed ++ [b] ∧ ((t.slot sl).len = 8#4 ∨ (t.slot sl).len = 10#4)) ∧
    ∀ o, o ≠ sl → ∀ other, (s.slot o).tracks other → (t.slot o).tracks other

/-- After a reset, whatever the payload, both slots have the history of no byte fed (R20; D11), so the
invariant above starts there. -/
def Obligations.ResetSlotsTrackNoBytes : Prop :=
  ∀ payload inputs sl, ((State.resetWith payload inputs).slot sl).tracks []

/-- Round trip (R69; D1, D3, D7, D9, D12, D24): encode in slot `a`, read the frame out, feed it to slot
`b` at an open position, and read `b`: nine answers 0, then 1, then valid, length 10, and the operands
of `SET`; and the two buffers read alike at every index. -/
def Obligations.RoundTripFromEncoderToDecoder : Prop :=
  ∀ (s t : State) (a b : SlotId) (cmd : Byte) (param : Half) (fb : Bool),
    exec (.set a cmd param fb) s = .next t → (t.slot b).atOpenPos →
    let reads := commandInputs [.valid b, .getlen b, .getcmd b, .getparam b, .getfb b]
    ∃ u, trace 15 { t with inputs := recvInputs b (t.slot a).readOut ++ reads } =
        some (List.replicate 9 (some (.performed 0#16)) ++
          ([1#16, 1#16, 10#16, BitVec.ofNat 16 cmd.toNat, param, if fb then 1#16 else 0#16].map
            fun v => some (.performed v)), u) ∧
      ∀ i, (u.slot b).readByte i = (t.slot a).readByte i

/-- The decoder recovers by itself (R95): whatever the slot holds and whatever the bytes are, some
point within six bytes finds it at an open position. -/
def Obligations.SixBytesReachAnOpenPosition : Prop :=
  ∀ (s : State) (sl : SlotId) (bs : List Byte), bs.length = 6 →
    ∃ k answers t, k ≤ 6 ∧
      trace k { s with inputs := recvInputs sl bs } = some (answers, t) ∧ (t.slot sl).atOpenPos

/-- The counter-example of R67 (90_conflicts.md C1): from any reset, a header fragment swallows the
frame that follows it; fifteen bytes, no completion, and the buffer holds the mixture. -/
def Obligations.HeaderFragmentSwallowsTheNextFrame : Prop :=
  ∀ (payload : ResetPayload) (sl : SlotId), ∃ t,
    trace 15 (State.resetWith payload (recvInputs sl [0x7E#8, 0xFF#8, 0x06#8, 0x01#8, 0x02#8, 0x7E#8,
        0xFF#8, 0x06#8, 0x06#8, 0x01#8, 0x00#8, 0x14#8, 0xFE#8, 0xE0#8, 0xEF#8])) =
      some (List.replicate 15 (some (.performed 0#16)), t) ∧
    t.slot sl =
      { commandId := 0x01#8, feedbackFlag := 0x02#8, paramHi := 0x7E#8, paramLo := 0xFF#8,
        checksumHi := 0x06#8, checksumLo := 0x06#8, len := 0#4, pos := 0#4 }

/-! ### `VALID` and the readers -/

/-- `VALID` completes, changes nothing, and answers by the form `len` names (R71; D8, D12): a short
frame by its byte at position 7, a long frame by its six summed bytes and its stored checksum coming to
0 modulo 65536 (R52), and anything else not valid. -/
def Obligations.ValidTestsTheFormThatLenNames : Prop :=
  ∀ (sl : SlotId) (s : State),
    let f := s.slot sl
    ∃ t v, exec (.valid sl) s = .next t ∧ SameSlots s t ∧ t.answer = some (.performed v) ∧
      (v = 1#16 ∨ v = 0#16) ∧
      (v = 1#16 ↔
        (f.len = 8#4 ∧ f.checksumHi = 0xEF#8) ∨
        (f.len = 10#4 ∧
          (0xFF + 0x06 + f.commandId.toNat + f.feedbackFlag.toNat + f.paramHi.toNat +
            f.paramLo.toNat + f.checksumHi.toNat * 256 + f.checksumLo.toNat) % 65536 = 0))

/-- `GETLEN`, `GETCMD`, `GETFB`, `GETPHI` and `GETPLO` complete in every state, change nothing, and
answer their register, whatever `len`, `pos` and validity are (R73, R75, R76, R78, R79, R80; D12,
D18). -/
def Obligations.FieldReadersAnswerTheirRegister : Prop :=
  ∀ (sl : SlotId) (s : State) (i : Instr) (n : Nat),
    (i, n) ∈ [(.getlen sl, (s.slot sl).len.toNat), (.getcmd sl, (s.slot sl).commandId.toNat),
        (.getfb sl, (s.slot sl).feedbackFlag.toNat), (.getphi sl, (s.slot sl).paramHi.toNat),
        (.getplo sl, (s.slot sl).paramLo.toNat)] →
    ∃ t, exec i s = .next t ∧ SameSlots s t ∧ t.answer = some (.performed (BitVec.ofNat 16 n))

/-- `GETPARAM` completes, changes nothing, and answers the param with its high byte from position 5
(R77, R24; D12). -/
def Obligations.GetparamAnswersTheBigEndianParam : Prop :=
  ∀ (sl : SlotId) (s : State), ∃ t, exec (.getparam sl) s = .next t ∧ SameSlots s t ∧
    t.answer = some (.performed
      (BitVec.ofNat 16 ((s.slot sl).paramHi.toNat * 256 + (s.slot sl).paramLo.toNat)))

/-- `GETBYTE` with an index in 0 to 9 completes, changes nothing, and answers the constant or the
register at that index, whatever `len` is (R74, R10, R11; D5, D12). -/
def Obligations.GetbyteAnswersTheByteAtTheIndex : Prop :=
  ∀ (sl : SlotId) (s : State) (i : Nibble) (v : Byte),
    (i, v) ∈ [(0#4, 0x7E#8), (1#4, 0xFF#8), (2#4, 0x06#8), (3#4, (s.slot sl).commandId),
        (4#4, (s.slot sl).feedbackFlag), (5#4, (s.slot sl).paramHi), (6#4, (s.slot sl).paramLo),
        (7#4, (s.slot sl).checksumHi), (8#4, (s.slot sl).checksumLo), (9#4, 0xEF#8)] →
    ∃ t, exec (.getbyte sl i) s = .next t ∧ SameSlots s t ∧
      t.answer = some (.performed (BitVec.ofNat 16 v.toNat))

/-- `GETBYTE` with an index in 10 to 15 is refused with `bad_index`: no state changes, and the response
is `err = 1`, `val = 0` (R28, R74, R82; D14). -/
def Obligations.GetbyteOutOfRangeIsRefused : Prop :=
  ∀ (sl : SlotId) (s : State) (i : Nibble), 9 < i.toNat →
    ∃ t a, exec (.getbyte sl i) s = .next t ∧ SameSlots s t ∧ t.answer = some a ∧
      a = .refused .badIndex ∧ a.err = true ∧ a.val = 0#16

/-- `GETCMD`, `GETFB`, `GETPHI` and `GETPLO` are `GETBYTE` at index 3, 4, 5 and 6 (R80; D18), and the
answer of `GETPARAM` is those of `GETPHI` and `GETPLO` joined (R77, R78, R79). -/
def Obligations.FieldReadersAgreeWithGetbyte : Prop :=
  ∀ (sl : SlotId) (s : State),
    exec (.getcmd sl) s = exec (.getbyte sl 3#4) s ∧ exec (.getfb sl) s = exec (.getbyte sl 4#4) s ∧
    exec (.getphi sl) s = exec (.getbyte sl 5#4) s ∧ exec (.getplo sl) s = exec (.getbyte sl 6#4) s ∧
    ∀ t u v p h l, exec (.getparam sl) s = .next t → exec (.getphi sl) s = .next u →
      exec (.getplo sl) s = .next v → t.answer = some (.performed p) →
      u.answer = some (.performed h) → v.answer = some (.performed l) →
      h.toNat = p.toNat / 256 ∧ l.toNat = p.toNat % 256

/-! ### Rules of the whole block -/

/-- Only `SET` and `RECV` write a slot, only `RECV` moves `pos`, and `len` changes only to 10 by `SET`
or to 8 or 10 by a `RECV` that answers 1 (R12, R13, R15; D4, D10). -/
def Obligations.WhoWritesWhichRegister : Prop :=
  ∀ (i : Instr) (s t : State), exec i s = .next t →
    (i.op ≠ .set → i.op ≠ .recv → SameSlots s t) ∧
    (i.op ≠ .recv → ∀ sl, (t.slot sl).pos = (s.slot sl).pos) ∧
    (∀ sl, (t.slot sl).len ≠ (s.slot sl).len →
      sl = i.slotId ∧
      ((i.op = .set ∧ (t.slot sl).len = 10#4) ∨
       (i.op = .recv ∧ t.answer = some (.performed 1#16) ∧
        ((t.slot sl).len = 8#4 ∨ (t.slot sl).len = 10#4))))

/-- The two slots are independent (R19; D1): an operation leaves the other slot alone, and what it does
to its own slot and what it answers are the same in any two states that agree on its own slot. -/
def Obligations.SlotsDoNotInterfere : Prop :=
  ∀ (i : Instr) (s₁ s₂ t₁ t₂ : State), exec i s₁ = .next t₁ → exec i s₂ = .next t₂ →
    s₁.slot i.slotId = s₂.slot i.slotId →
    t₁.slot i.slotId = t₂.slot i.slotId ∧ t₁.answer = t₂.answer ∧
    ∀ o, o ≠ i.slotId → t₁.slot o = s₁.slot o

/-- The two slots are `TX` under selector 0 and `RX` under selector 1 (R4, R41; D1, D12): the word's bit
27 is the selector of the operation it spells. -/
def Obligations.SelectorBitNamesTheSlot : Prop :=
  ∀ (s : State) (w : Word) (i : Instr), decode w = .ok i →
    s.slot i.slotId = if w.getLsbD 27 then s.rx else s.tx
end

