-- ==== Sys2Proof/Laws/Encoding.lean ====
section
/-! SUPPORT. The fields of a command word: what each field of an encoded operation is, and what the
fields of a word say about its bits. -/

namespace Sys2Proof

/-! ### Selects, slots and flags as bits -/

@[simp] theorem opOfCode_code (op : Op) : opOfCode op.code = some op := by cases op <;> rfl

/-- A select code names at most one operation. -/
theorem opOfCode_eq_some_iff (c : Nibble) (op : Op) : opOfCode c = some op ↔ c = op.code := by
  revert c; cases op <;> decide

/-- The reserved selects are 0x0 and 0xB to 0xF (R44). -/
theorem opOfCode_eq_none_iff (c : Nibble) : opOfCode c = none ↔ c.toNat = 0 ∨ 11 ≤ c.toNat := by
  revert c; decide

theorem slotBit_slotField (w : Word) : slotBit (slotField w) = w.extractLsb' 27 1 := by
  unfold slotField
  generalize w.extractLsb' 27 1 = v
  revert v; decide

theorem fbBit_fbField (w : Word) : fbBit (fbField w) = w.extractLsb' 26 1 := by
  unfold fbField
  generalize w.extractLsb' 26 1 = v
  revert v; decide

/-! ### The fields of an encoded operation -/

theorem slotField_encode (i : Instr) : slotField (encode i) = i.slotId := by
  have h : (encode i).extractLsb' 27 1 = slotBit i.slotId := by
    cases i <;>
      (ext j hj
       obtain rfl : j = 0 := by omega
       simp [encode, encodeN, place, Instr.slotId])
  unfold slotField
  rw [h]
  cases i.slotId <;> rfl

theorem encode_and_mustBeZero (i : Instr) : encode i &&& i.op.mustBeZero = 0#32 := by
  cases i <;>
    (ext j hj
     interval_cases j <;>
       simp [encode, encodeN, place, Instr.op, Op.mustBeZero])

theorem fbField_encode_set (sl : SlotId) (cmd : Byte) (param : Half) (fb : Bool) :
    fbField (encode (.set sl cmd param fb)) = fb := by
  have h : (encode (.set sl cmd param fb)).extractLsb' 26 1 = fbBit fb := by
    ext j hj
    obtain rfl : j = 0 := by omega
    simp [encode, encodeN, place]
  unfold fbField
  rw [h]
  cases fb <;> rfl

theorem cmdField_encode_set (sl : SlotId) (cmd : Byte) (param : Half) (fb : Bool) :
    cmdField (encode (.set sl cmd param fb)) = cmd := by
  ext j hj
  interval_cases j <;> simp [cmdField, encode, encodeN, place]

theorem paramField_encode_set (sl : SlotId) (cmd : Byte) (param : Half) (fb : Bool) :
    paramField (encode (.set sl cmd param fb)) = param := by
  ext j hj
  interval_cases j <;> simp [paramField, encode, encodeN, place]

theorem byteField_encode_recv (sl : SlotId) (b : Byte) : byteField (encode (.recv sl b)) = b := by
  ext j hj
  interval_cases j <;> simp [byteField, encode, encodeN, place]

theorem indexField_encode_getbyte (sl : SlotId) (i : Nibble) :
    indexField (encode (.getbyte sl i)) = i := by
  ext j hj
  interval_cases j <;> simp [indexField, encode, encodeN, place]

/-! ### The decoder, by the fields of its word -/

/-- The decoder answers an operation exactly when the select names one and the bits its format wants
zero are zero. -/
theorem decode_eq_ok_iff (w : Word) (i : Instr) :
    decode w = .ok i ↔
      ∃ op : Op, opField w = op.code ∧ w &&& op.mustBeZero = 0#32 ∧ i = op.withOperands w := by
  unfold decode
  constructor
  · intro h
    split at h
    · simp at h
    · next op hop =>
      split at h
      · next hz => exact ⟨op, (opOfCode_eq_some_iff _ _).mp hop, hz, (Except.ok.inj h).symm⟩
      · simp at h
  · rintro ⟨op, hop, hz, rfl⟩
    rw [hop, opOfCode_code]
    simp [hz]

/-- An operation read from a word is the one its select names. -/
@[simp] theorem Op.op_withOperands (op : Op) (w : Word) : (op.withOperands w).op = op := by
  cases op <;> rfl

/-- An operation read from a word acts on the slot of the word's bit 27. -/
@[simp] theorem Op.slotId_withOperands (op : Op) (w : Word) :
    (op.withOperands w).slotId = slotField w := by
  cases op <;> rfl

end Sys2Proof
end

