-- ==== Sys2Proof/Laws/State.lean ====
section
/-! SUPPORT. What each update of the state does to each field, so that no proof unfolds a record
update. -/

namespace Sys2Proof.Machine

variable (s : State) (sl : SlotId) (f : FrameSlot) (v : Half) (why : RefusedReason)

@[simp] theorem State.slot_tx : s.slot .tx = s.tx := rfl
@[simp] theorem State.slot_rx : s.slot .rx = s.rx := rfl

@[simp] theorem State.setSlot_tx_tx : (s.setSlot .tx f).tx = f := rfl
@[simp] theorem State.setSlot_tx_rx : (s.setSlot .tx f).rx = s.rx := rfl
@[simp] theorem State.setSlot_rx_tx : (s.setSlot .rx f).tx = s.tx := rfl
@[simp] theorem State.setSlot_rx_rx : (s.setSlot .rx f).rx = f := rfl
@[simp] theorem State.setSlot_inputs : (s.setSlot sl f).inputs = s.inputs := by cases sl <;> rfl
@[simp] theorem State.setSlot_answer : (s.setSlot sl f).answer = s.answer := by cases sl <;> rfl

@[simp] theorem State.slot_setSlot_self : (s.setSlot sl f).slot sl = f := by cases sl <;> rfl

theorem State.slot_setSlot_of_ne {o sl : SlotId} (h : o ≠ sl) : (s.setSlot sl f).slot o = s.slot o := by
  cases o <;> cases sl <;> first | rfl | exact absurd rfl h

@[simp] theorem State.answered_tx : (s.answered v).tx = s.tx := rfl
@[simp] theorem State.answered_rx : (s.answered v).rx = s.rx := rfl
@[simp] theorem State.answered_inputs : (s.answered v).inputs = s.inputs := rfl
@[simp] theorem State.answered_answer : (s.answered v).answer = some (.performed v) := rfl
@[simp] theorem State.answered_slot : (s.answered v).slot sl = s.slot sl := by cases sl <;> rfl

@[simp] theorem State.refuse_tx : (s.refuse why).tx = s.tx := rfl
@[simp] theorem State.refuse_rx : (s.refuse why).rx = s.rx := rfl
@[simp] theorem State.refuse_inputs : (s.refuse why).inputs = s.inputs := rfl
@[simp] theorem State.refuse_answer : (s.refuse why).answer = some (.refused why) := rfl
@[simp] theorem State.refuse_slot : (s.refuse why).slot sl = s.slot sl := by cases sl <;> rfl

@[simp] theorem State.assertReset_tx (p : ResetPayload) :
    (s.assertReset p).tx = FrameSlot.afterReset p.tx := rfl
@[simp] theorem State.assertReset_rx (p : ResetPayload) :
    (s.assertReset p).rx = FrameSlot.afterReset p.rx := rfl
@[simp] theorem State.assertReset_inputs (p : ResetPayload) : (s.assertReset p).inputs = s.inputs := rfl
@[simp] theorem State.assertReset_answer (p : ResetPayload) : (s.assertReset p).answer = none := rfl

/-- The inputs still to come do not matter to what a slot holds. -/
@[simp] theorem State.slot_withInputs (is : List HostInput) :
    ({ s with inputs := is } : State).slot sl = s.slot sl := by cases sl <;> rfl

end Sys2Proof.Machine
end

