-- ==== Sys2Proof/Laws/Ops.lean ====
section
/-! SUPPORT. One lemma for each shared operation, saying once what it does. -/

namespace Sys2Proof.Machine

/-! ### The frame buffer -/

/-- What every position of a buffer reads as (R30). -/
theorem FrameSlot.readByte_table (f : FrameSlot) :
    f.readByte 0#4 = some START ∧ f.readByte 1#4 = some VERSION ∧ f.readByte 2#4 = some LENGTH ∧
    f.readByte 3#4 = some f.commandId ∧ f.readByte 4#4 = some f.feedbackFlag ∧
    f.readByte 5#4 = some f.paramHi ∧ f.readByte 6#4 = some f.paramLo ∧
    f.readByte 7#4 = some f.checksumHi ∧ f.readByte 8#4 = some f.checksumLo ∧
    f.readByte 9#4 = some END :=
  ⟨rfl, rfl, rfl, rfl, rfl, rfl, rfl, rfl, rfl, rfl⟩

@[simp] theorem FrameSlot.writeByte_len (f : FrameSlot) (i : Nibble) (v : Byte) :
    (f.writeByte i v).len = f.len := by
  unfold FrameSlot.writeByte; split <;> rfl

@[simp] theorem FrameSlot.writeByte_pos (f : FrameSlot) (i : Nibble) (v : Byte) :
    (f.writeByte i v).pos = f.pos := by
  unfold FrameSlot.writeByte; split <;> rfl

/-! ### Operands and results -/

theorem bitResult_eq_one_iff (v : Bool) : bitResult v = 1#16 ↔ v = true := by
  cases v <;> decide

theorem highByte_toNat (v : Half) : (highByte v).toNat = v.toNat / 256 := by
  have := v.isLt
  simp [highByte, BitVec.extractLsb'_toNat, Nat.shiftRight_eq_div_pow]
  omega

theorem lowByte_toNat (v : Half) : (lowByte v).toNat = v.toNat % 256 := by
  simp [lowByte, BitVec.extractLsb'_toNat]

theorem joinBytes_toNat (h l : Byte) : (joinBytes h l).toNat = h.toNat * 256 + l.toNat := by
  rw [joinBytes, BitVec.toNat_cast, BitVec.toNat_append, ← Nat.shiftLeft_add_eq_or_of_lt l.isLt,
    Nat.shiftLeft_eq]

/-- Splitting a 16-bit value into bytes and joining them again gives it back. -/
@[simp] theorem joinBytes_split (v : Half) : joinBytes (highByte v) (lowByte v) = v := by
  apply BitVec.eq_of_toNat_eq
  rw [joinBytes_toNat, highByte_toNat, lowByte_toNat]
  omega

/-! ### The checksum -/

/-- The sum of six bytes never wraps (R48). -/
theorem sumBytes_le (b1 b2 b3 b4 b5 b6 : Byte) : sumBytes b1 b2 b3 b4 b5 b6 ≤ 1530 := by
  have := b1.isLt; have := b2.isLt; have := b3.isLt
  have := b4.isLt; have := b5.isLt; have := b6.isLt
  unfold sumBytes; omega

theorem cksum16_toNat (b1 b2 b3 b4 b5 b6 : Byte) :
    (cksum16 b1 b2 b3 b4 b5 b6).toNat = (65536 - sumBytes b1 b2 b3 b4 b5 b6) % 65536 := by
  have := sumBytes_le b1 b2 b3 b4 b5 b6
  simp [cksum16, Nat.mod_eq_of_lt (show sumBytes b1 b2 b3 b4 b5 b6 < 65536 by omega)]

/-- The six-byte sum of a frame with its two constants is at least 0x0105, so the checksum is the plain
difference (R50). -/
theorem cksum16_frame_toNat (c f h l : Byte) :
    (cksum16 VERSION LENGTH c f h l).toNat =
      65536 - (0x105 + c.toNat + f.toNat + h.toNat + l.toNat) := by
  have := c.isLt; have := f.isLt; have := h.isLt; have := l.isLt
  rw [cksum16_toNat]
  simp only [sumBytes, VERSION, LENGTH, BitVec.toNat_ofNat]
  omega

/-- The high checksum byte of a frame is never the end constant (R51). -/
theorem highByte_cksum16_frame_ne_END (c f h l : Byte) :
    highByte (cksum16 VERSION LENGTH c f h l) ≠ END := by
  intro e
  have e' := congrArg BitVec.toNat e
  have := c.isLt; have := f.isLt; have := h.isLt; have := l.isLt
  rw [highByte_toNat, cksum16_frame_toNat] at e'
  simp only [END, BitVec.toNat_ofNat] at e'
  omega

@[simp] theorem START_ne_END : START ≠ END := by decide

/-! ### The scanner, one lemma for each kind of position -/

theorem normalisePos_of_le {p : Nibble} (h : p.toNat ≤ 9) : normalisePos p = p := by
  simp [normalisePos, h]

theorem normalisePos_of_gt {p : Nibble} (h : 9 < p.toNat) : normalisePos p = 0#4 := by
  simp [normalisePos, Nat.not_le.mpr h]

/-- Position 0, and every position out of range, looks for the start byte (R58, R59). -/
theorem FrameSlot.receive_at_start {f : FrameSlot} (b : Byte) (h : normalisePos f.pos = 0#4) :
    f.receive b = ({ f with pos := if b = START then 1#4 else 0#4 }, false) := by
  by_cases hb : b = START <;>
    simp [FrameSlot.receive, h, template, FrameSlot.receiveTemplate, FrameSlot.goTo, hb]

/-- Positions 1 and 2 match a constant, restart on the start byte, or discard (R59). -/
theorem FrameSlot.receive_at_header {f : FrameSlot} {c : Byte} (b : Byte)
    (h : (f.pos = 1#4 ∧ c = VERSION) ∨ (f.pos = 2#4 ∧ c = LENGTH)) :
    f.receive b =
      ({ f with pos := if b = c then f.pos + 1#4 else if b = START then 1#4 else 0#4 }, false) := by
  obtain ⟨hp, rfl⟩ | ⟨hp, rfl⟩ := h <;>
    (simp only [FrameSlot.receive, hp, normalisePos, template, FrameSlot.receiveTemplate,
      FrameSlot.goTo]
     by_cases hc : b = START <;> simp [hc] <;> split <;> rfl)

/-- Position 9 completes the long form, restarts on the start byte, or discards (R59, R62). -/
theorem FrameSlot.receive_at_end {f : FrameSlot} (b : Byte) (h : f.pos = 9#4) :
    f.receive b =
      if b = END then ({ f with len := 10#4, pos := 0#4 }, true)
      else ({ f with pos := if b = START then 1#4 else 0#4 }, false) := by
  by_cases hb : b = END
  · simp [FrameSlot.receive, h, normalisePos, template, FrameSlot.receiveTemplate,
      FrameSlot.completeLong, hb]
  · by_cases hs : b = START <;>
      simp [FrameSlot.receive, h, normalisePos, template, FrameSlot.receiveTemplate, FrameSlot.goTo,
        hb, hs]

/-- Position 7 stores the byte, and the end constant completes the short form (R60, R62). -/
theorem FrameSlot.receive_at_seven {f : FrameSlot} (b : Byte) (h : f.pos = 7#4) :
    f.receive b =
      if b = END then ({ f with checksumHi := b, len := 8#4, pos := 0#4 }, true)
      else ({ f with checksumHi := b, pos := 8#4 }, false) := by
  by_cases hb : b = END <;>
    simp [FrameSlot.receive, h, normalisePos, template, FrameSlot.receiveAtSeven,
      FrameSlot.writeByte, FrameSlot.completeShort, FrameSlot.goTo, hb]

/-- The buffered positions store the byte untested and advance (R61). -/
theorem FrameSlot.receive_at_buffered {f : FrameSlot} (b : Byte)
    (h : f.pos = 3#4 ∨ f.pos = 4#4 ∨ f.pos = 5#4 ∨ f.pos = 6#4 ∨ f.pos = 8#4) :
    f.receive b = ({ f.writeByte f.pos b with pos := f.pos + 1#4 }, false) := by
  obtain hp | hp | hp | hp | hp := h <;>
    simp [FrameSlot.receive, hp, normalisePos, template, FrameSlot.receiveBuffered,
      FrameSlot.writeByte, FrameSlot.goTo]

/-- Every slot falls under one of the lemmas above. -/
theorem FrameSlot.pos_cases (f : FrameSlot) :
    normalisePos f.pos = 0#4 ∨ (f.pos = 1#4 ∨ f.pos = 2#4) ∨ f.pos = 9#4 ∨ f.pos = 7#4 ∨
      (f.pos = 3#4 ∨ f.pos = 4#4 ∨ f.pos = 5#4 ∨ f.pos = 6#4 ∨ f.pos = 8#4) := by
  generalize f.pos = p
  revert p
  decide

/-- What `RECV` may do to the registers besides storing one byte: it completes a frame, with the length
of its form, or leaves `len` alone; and it leaves `pos` in 0 to 9 (R16, R62, R64). -/
theorem FrameSlot.receive_len_pos (f : FrameSlot) (b : Byte) :
    (f.receive b).1.pos.toNat ≤ 9 ∧
    (((f.receive b).2 = false ∧ (f.receive b).1.len = f.len) ∨
     ((f.receive b).2 = true ∧ b = END ∧ (f.receive b).1.pos = 0#4 ∧
      ((f.pos = 7#4 ∧ (f.receive b).1.len = 8#4) ∨ (f.pos = 9#4 ∧ (f.receive b).1.len = 10#4)))) := by
  obtain h | h | h | h | h := f.pos_cases
  · rw [FrameSlot.receive_at_start b h]
    refine ⟨?_, .inl ⟨rfl, rfl⟩⟩
    dsimp only; split <;> decide
  · obtain h | h := h
    · rw [FrameSlot.receive_at_header b (.inl ⟨h, rfl⟩), h]
      refine ⟨?_, .inl ⟨rfl, rfl⟩⟩
      dsimp only; split <;> [decide; (split <;> decide)]
    · rw [FrameSlot.receive_at_header b (.inr ⟨h, rfl⟩), h]
      refine ⟨?_, .inl ⟨rfl, rfl⟩⟩
      dsimp only; split <;> [decide; (split <;> decide)]
  · rw [FrameSlot.receive_at_end b h]
    split
    · next hb => exact ⟨Nat.zero_le 9, .inr ⟨rfl, hb, rfl, .inr ⟨h, rfl⟩⟩⟩
    · refine ⟨?_, .inl ⟨rfl, rfl⟩⟩
      dsimp only; split <;> decide
  · rw [FrameSlot.receive_at_seven b h]
    split
    · next hb => exact ⟨Nat.zero_le 9, .inr ⟨rfl, hb, rfl, .inl ⟨h, rfl⟩⟩⟩
    · exact ⟨Nat.le_succ 8, .inl ⟨rfl, rfl⟩⟩
  · rw [FrameSlot.receive_at_buffered b h]
    refine ⟨?_, .inl ⟨rfl, by simp⟩⟩
    obtain h | h | h | h | h := h <;> rw [h] <;> dsimp only <;> decide

end Sys2Proof.Machine
end

