-- ==== Sys2Proof/Laws/PerInstr.lean ====
section
/-! SUPPORT. Statements made for each constructor of `Instr`. The family `SelectField`: the select field
of an encoded operation is the code of its row in R42. -/

namespace Sys2Proof.Laws.SelectField

/-- `w[31:28]` of the word of an operation is its select code (R41, R42). -/
def Statement (i : Instr) : Prop := opField (encode i) = i.op.code

theorem set (sl : SlotId) (cmd : Byte) (param : Half) (fb : Bool) :
    Statement (.set sl cmd param fb) := by
  unfold Statement; ext j hj
  interval_cases j <;> simp [opField, encode, encodeN, place, Op.code, Instr.op]

theorem recv (sl : SlotId) (b : Byte) : Statement (.recv sl b) := by
  unfold Statement; ext j hj
  interval_cases j <;> simp [opField, encode, encodeN, place, Op.code, Instr.op]

theorem valid (sl : SlotId) : Statement (.valid sl) := by cases sl <;> rfl

theorem getlen (sl : SlotId) : Statement (.getlen sl) := by cases sl <;> rfl

theorem getbyte (sl : SlotId) (i : Nibble) : Statement (.getbyte sl i) := by
  unfold Statement; ext j hj
  interval_cases j <;> simp [opField, encode, encodeN, place, Op.code, Instr.op]

theorem getcmd (sl : SlotId) : Statement (.getcmd sl) := by cases sl <;> rfl

theorem getfb (sl : SlotId) : Statement (.getfb sl) := by cases sl <;> rfl

theorem getparam (sl : SlotId) : Statement (.getparam sl) := by cases sl <;> rfl

theorem getphi (sl : SlotId) : Statement (.getphi sl) := by cases sl <;> rfl

theorem getplo (sl : SlotId) : Statement (.getplo sl) := by cases sl <;> rfl

end Sys2Proof.Laws.SelectField
end

