-- ==== Sys2Proof/Laws/Stream.lean ====
section
/-! SUPPORT. Runs of several steps, and the scanner over a list of bytes. -/

namespace Sys2Proof.Machine

theorem trace_succ_of_next {s t : State} (k : Nat) (h : step s = .next t) :
    trace (k + 1) s = (trace k t).map fun r => (t.answer :: r.1, r.2) := by
  simp [trace, h]

@[simp] theorem FrameSlot.feed_nil (f : FrameSlot) : f.feed [] = (f, []) := rfl

theorem FrameSlot.feed_cons (f : FrameSlot) (b : Byte) (bs : List Byte) :
    f.feed (b :: bs) =
      (((f.receive b).1.feed bs).1, (f.receive b).2 :: ((f.receive b).1.feed bs).2) := rfl

theorem FrameSlot.feed_append (f : FrameSlot) (bs cs : List Byte) :
    f.feed (bs ++ cs) =
      (((f.feed bs).1.feed cs).1, (f.feed bs).2 ++ ((f.feed bs).1.feed cs).2) := by
  induction bs generalizing f with
  | nil => simp
  | cons b bs ih => simp [FrameSlot.feed_cons, ih]

@[simp] theorem FrameSlot.feed_length (f : FrameSlot) (bs : List Byte) :
    (f.feed bs).2.length = bs.length := by
  induction bs generalizing f with
  | nil => simp
  | cons b bs ih => simp [FrameSlot.feed_cons, ih]

/-- A start byte takes the scanner from any open position to position 1 and stores nothing (R66). -/
theorem FrameSlot.receive_START_of_atOpenPos {f : FrameSlot} (h : f.atOpenPos) :
    f.receive START = ({ f with pos := 1#4 }, false) := by
  have hp : normalisePos f.pos = 0#4 ∨ (f.pos = 1#4 ∨ f.pos = 2#4) ∨ f.pos = 9#4 := by
    revert h
    unfold FrameSlot.atOpenPos
    generalize f.pos = p
    revert p
    decide
  obtain h | (h | h) | h := hp
  · rw [FrameSlot.receive_at_start _ h]; simp
  · rw [FrameSlot.receive_at_header _ (.inl ⟨h, rfl⟩), h]; rfl
  · rw [FrameSlot.receive_at_header _ (.inr ⟨h, rfl⟩), h]; rfl
  · rw [FrameSlot.receive_at_end _ h]; simp

/-- A whole header from an open position brings the scanner to position 3 and stores nothing. -/
theorem FrameSlot.feed_header {f : FrameSlot} (h : f.atOpenPos) (rest : List Byte) :
    f.feed (START :: VERSION :: LENGTH :: rest) =
      ((({ f with pos := 3#4 } : FrameSlot).feed rest).1,
        [false, false, false] ++ (({ f with pos := 3#4 } : FrameSlot).feed rest).2) := by
  have h1 : ({ f with pos := 1#4 } : FrameSlot).receive VERSION = ({ f with pos := 2#4 }, false) := by
    rw [FrameSlot.receive_at_header _ (.inl ⟨rfl, rfl⟩)]; rfl
  have h2 : ({ f with pos := 2#4 } : FrameSlot).receive LENGTH = ({ f with pos := 3#4 }, false) := by
    rw [FrameSlot.receive_at_header _ (.inr ⟨rfl, rfl⟩)]; rfl
  rw [FrameSlot.feed_cons, FrameSlot.receive_START_of_atOpenPos h, FrameSlot.feed_cons, h1,
    FrameSlot.feed_cons, h2]
  rfl

/-- Four bytes from position 3 are stored as the payload and bring the scanner to position 7. -/
theorem FrameSlot.feed_payload {f : FrameSlot} (hp : f.pos = 3#4) (c fl h l : Byte)
    (rest : List Byte) :
    f.feed (c :: fl :: h :: l :: rest) =
      ((({ f with commandId := c, feedbackFlag := fl, paramHi := h, paramLo := l, pos := 7#4 } :
          FrameSlot).feed rest).1,
        [false, false, false, false] ++
          (({ f with commandId := c, feedbackFlag := fl, paramHi := h, paramLo := l, pos := 7#4 } :
            FrameSlot).feed rest).2) := by
  have h3 : f.receive c = ({ f with commandId := c, pos := 4#4 }, false) := by
    rw [FrameSlot.receive_at_buffered _ (.inl hp), hp]; rfl
  have h4 : ∀ g : FrameSlot, g.pos = 4#4 →
      g.receive fl = ({ g with feedbackFlag := fl, pos := 5#4 }, false) := by
    intro g hg; rw [FrameSlot.receive_at_buffered _ (.inr (.inl hg)), hg]; rfl
  have h5 : ∀ g : FrameSlot, g.pos = 5#4 →
      g.receive h = ({ g with paramHi := h, pos := 6#4 }, false) := by
    intro g hg; rw [FrameSlot.receive_at_buffered _ (.inr (.inr (.inl hg))), hg]; rfl
  have h6 : ∀ g : FrameSlot, g.pos = 6#4 →
      g.receive l = ({ g with paramLo := l, pos := 7#4 }, false) := by
    intro g hg; rw [FrameSlot.receive_at_buffered _ (.inr (.inr (.inr (.inl hg)))), hg]; rfl
  rw [FrameSlot.feed_cons, h3, FrameSlot.feed_cons, h4 _ rfl, FrameSlot.feed_cons, h5 _ rfl,
    FrameSlot.feed_cons, h6 _ rfl]
  rfl

end Sys2Proof.Machine
end

