-- ==== Sys2Proof/Tests/Slice0.lean ====
section
/-! SUPPORT. The model's own tests, each one step on a small state, with results from
95_test_vectors.md or worked out by hand from a rule; and for each statement that has premises, a
state and operands that meet them. -/

namespace Sys2Proof.Machine.Tests

/-- A slot that holds the frame of vector S1, `7E FF 06 06 01 00 14 FE E0 EF`, at a position. -/
def slotAt (pos len : Nibble) : FrameSlot :=
  { commandId := 0x06, feedbackFlag := 0x01, paramHi := 0x00, paramLo := 0x14, checksumHi := 0xFE,
    checksumLo := 0xE0, len := len, pos := pos }

/-- `TX` holds a long frame at a position; `RX` is at position 5. -/
def stateAt (pos : Nibble) : State :=
  { tx := slotAt pos 10#4, rx := slotAt 5#4 8#4, inputs := [], answer := none }

/-- The same state with inputs still to come. -/
def stateWith (inputs : List HostInput) : State := { stateAt 0#4 with inputs := inputs }

/-- The next state of an outcome. -/
def nextOf (o : Host.Outcome State Fault Refusal) : Option State :=
  match o with
  | .next s => some s
  | .fault _ => none
  | .refused _ => none

/-- The answer an operation gives in a state. -/
def answerOf (i : Instr) (s : State) : Option Answer := (nextOf (exec i s)).bind State.answer

/-- What an operation leaves in slot `TX`. -/
def txAfter (i : Instr) (s : State) : Option FrameSlot := (nextOf (exec i s)).map State.tx

/-! ### Decoding: words written out from R42's patterns -/

-- 0001 s=0 f=1 00, cmd 06, param 0014 (R42's example)
theorem test_decode_set :
    decode 0b00010100000001100000000000010100#32 = .ok (.set .tx 0x06#8 0x0014#16 true) := by rfl
-- 0010 s=1 000, zeros, b 7E (R42's example)
theorem test_decode_recv :
    decode 0b00101000000000000000000001111110#32 = .ok (.recv .rx 0x7E#8) := by rfl
theorem test_decode_valid :
    decode 0b00111000000000000000000000000000#32 = .ok (.valid .rx) := by rfl
theorem test_decode_getlen :
    decode 0b01000000000000000000000000000000#32 = .ok (.getlen .tx) := by rfl
-- 0101 s=0 000, zeros, i 7 (R42's example)
theorem test_decode_getbyte :
    decode 0b01010000000000000000000000000111#32 = .ok (.getbyte .tx 7#4) := by rfl
theorem test_decode_getcmd :
    decode 0b01101000000000000000000000000000#32 = .ok (.getcmd .rx) := by rfl
theorem test_decode_getfb :
    decode 0b01110000000000000000000000000000#32 = .ok (.getfb .tx) := by rfl
theorem test_decode_getparam :
    decode 0b10001000000000000000000000000000#32 = .ok (.getparam .rx) := by rfl
theorem test_decode_getphi :
    decode 0b10010000000000000000000000000000#32 = .ok (.getphi .tx) := by rfl
theorem test_decode_getplo :
    decode 0b10101000000000000000000000000000#32 = .ok (.getplo .rx) := by rfl
-- V-X6, V-X8: a reserved select; a must-be-zero bit
theorem test_decode_reserved : decode 0xB0000000#32 = .error .reservedOp := by rfl
theorem test_decode_nonzero : decode 0x2800017E#32 = .error .nonzeroReservedBits := by rfl
-- R85: the select is examined first
theorem test_decode_priority : decode 0xF0000001#32 = .error .reservedOp := by rfl
-- V-E4, and the table's numbering
theorem test_encode_set : encode (.set .rx 0xFF#8 0xFFFF#16 true) = 0x1CFFFFFF#32 := by decide
theorem test_decodeTableWord : decodeTableWord 32 0xA8000000 = some (.getplo .rx) := by rfl

/-! ### Well-formedness -/

theorem test_wellFormed_refuses_index_10 : (Instr.getbyte .tx 10#4).wellFormed = false := by decide
theorem test_wellFormed_accepts_index_9 : (Instr.getbyte .tx 9#4).wellFormed = true := by decide

/-! ### Operations -/

-- V-E8: the byte order of the param, the checksum, the length, and pos unchanged (R53)
theorem test_set_bytes : txAfter (.set .tx 0x12#8 0x1234#16 true) (stateAt 5#4) =
    some ⟨0x12, 0x01, 0x12, 0x34, 0xFE, 0xA2, 10, 5⟩ := by decide
-- V-E10: the end constant as data; no borrow from the feedback byte
theorem test_set_end_as_data : txAfter (.set .tx 0xEF#8 0xEFEF#16 true) (stateAt 0#4) =
    some ⟨0xEF, 0x01, 0xEF, 0xEF, 0xFC, 0x2D, 10, 0⟩ := by decide
-- R59: a start byte where 06 was due restarts at 1 (V-D4, byte 4)
theorem test_recv_restarts : (txAfter (.recv .tx 0x7E#8) (stateAt 2#4)).map FrameSlot.pos = some 1 := by
  decide
-- R60, R62: the end constant at position 7 is stored and completes the short form
theorem test_recv_completes_short : txAfter (.recv .tx 0xEF#8) (stateAt 7#4) =
    some ⟨0x06, 0x01, 0x00, 0x14, 0xEF, 0xE0, 8, 0⟩ := by decide
-- V-V5, V-V13
theorem test_valid_long : answerOf (.valid .tx) (stateAt 0#4) = some (.performed 1) := by decide
theorem test_valid_len_selects_the_form : answerOf (.valid .tx)
    { stateAt 0#4 with tx := ⟨0x3A, 0x00, 0x00, 0x07, 0xEF, 0x55, 10, 0⟩ } = some (.performed 0) := by
  decide
theorem test_getlen : answerOf (.getlen .rx) (stateAt 0#4) = some (.performed 8) := by decide
-- V-V3, V-V15
theorem test_getbyte_hardwired : answerOf (.getbyte .rx 9#4) (stateAt 0#4) = some (.performed 0xEF) := by
  decide
theorem test_getbyte_bad_index : answerOf (.getbyte .tx 10#4) (stateAt 0#4) =
    some (.refused .badIndex) := by decide
theorem test_getcmd : answerOf (.getcmd .tx) (stateAt 0#4) = some (.performed 6) := by decide
theorem test_getfb : answerOf (.getfb .tx) (stateAt 0#4) = some (.performed 1) := by decide
theorem test_getparam : answerOf (.getparam .tx) (stateAt 0#4) = some (.performed 0x0014) := by decide
-- V-V14
theorem test_getphi : answerOf (.getphi .tx)
    { stateAt 0#4 with tx := ⟨0x42, 0x00, 0x02, 0x01, 0xFE, 0xB6, 10, 0⟩ } = some (.performed 2) := by
  decide
theorem test_getplo : answerOf (.getplo .tx)
    { stateAt 0#4 with tx := ⟨0x42, 0x00, 0x02, 0x01, 0xFE, 0xB6, 10, 0⟩ } = some (.performed 1) := by
  decide
-- R82, V-X8: a refused word moves nothing, pos included
theorem test_step_refused : (nextOf (step (stateWith [.command 0x2800017E#32]))).map State.rx =
    some (slotAt 5#4 8#4) := by decide
theorem test_step_from_reset :
    ((nextOf (step (State.reset.withFetchWord 32 0x2800007E))).map fun s => s.rx.pos) = some 1 := by
  decide
-- V-C1, V-C8
theorem test_cksum_zero : cksum16 0 0 0 0 0 0 = 0x0000#16 := by decide
theorem test_cksum_smallest_set : cksum16 0xFF 0x06 0xFF 0x01 0xFF 0xFF = 0xFBFD#16 := by decide

/-! ### Witnesses: a state and operands that meet the premises of each statement -/

theorem witness_DecodedWordIsTheEncodedWord :
    decode 0x5800000F#32 = .ok (.getbyte .rx 15#4) := by rfl

theorem witness_SelectorBitNamesTheSlot :
    decode 0x30000000#32 = .ok (.valid .tx) ∧ decode 0x38000000#32 = .ok (.valid .rx) := ⟨rfl, rfl⟩

theorem witness_StepPerformsTheDecodedOperation :
    (stateWith [.command 0x38000000#32]).inputs = [.command 0x38000000#32] ∧
    decode 0x38000000#32 = .ok (.valid .rx) := ⟨rfl, rfl⟩

theorem witness_UndecodableWordIsRefusedWithoutEffect :
    (stateWith [.command 0x00000000#32, .command 0x30000000#32]).inputs =
      .command 0x00000000#32 :: [.command 0x30000000#32] ∧
    decode 0x00000000#32 = .error .reservedOp := ⟨rfl, rfl⟩

theorem witness_ResetPinResetsBothSlots :
    (stateWith [.reset ⟨⟨1, 2, 3, 4, 5, 6⟩, ⟨7, 8, 9, 10, 11, 12⟩⟩]).inputs =
      .reset ⟨⟨1, 2, 3, 4, 5, 6⟩, ⟨7, 8, 9, 10, 11, 12⟩⟩ :: [] := rfl

theorem witness_IdleHostLeavesEverythingUnchanged : (stateAt 5#4).inputs = [] := rfl

theorem witness_AfterResetNoFrameIsHeld :
    (Instr.getbyte .tx 9#4, 0xEF#16) ∈ [(Instr.getlen .tx, 0#16), (.valid .tx, 0#16),
      (.getbyte .tx 0#4, 0x7E#16), (.getbyte .tx 1#4, 0xFF#16), (.getbyte .tx 2#4, 0x06#16),
      (.getbyte .tx 9#4, 0xEF#16)] := by decide

theorem witness_StepKeepsLegalLengthAndPosition :
    (stateWith [.command 0x200000EF#32]).wf ∧
    ∃ t, step (stateWith [.command 0x200000EF#32]) = .next t := ⟨by decide, _, rfl⟩

theorem witness_BufferWriteIsReadBackAlone :
    (3 ≤ (3#4 : Nibble).toNat ∧ (3#4 : Nibble).toNat ≤ 8) ∧
    (3 ≤ (8#4 : Nibble).toNat ∧ (8#4 : Nibble).toNat ≤ 8) := by decide

theorem witness_ParamIsStoredBigEndian :
    (slotAt 0#4 10#4).readByte 5#4 = some 0x00#8 ∧ (slotAt 0#4 10#4).readByte 6#4 = some 0x14#8 := by
  decide

theorem witness_ChecksumIsStoredBigEndian :
    (slotAt 0#4 10#4).readByte 7#4 = some 0xFE#8 ∧ (slotAt 0#4 10#4).readByte 8#4 = some 0xE0#8 := by
  decide

theorem witness_ReadOutIsTheFirstLenPositions :
    (slotAt 0#4 8#4).len.toNat ≤ 10 ∧ 7 < (slotAt 0#4 8#4).len.toNat ∧
    (slotAt 0#4 10#4).len.toNat ≤ 10 ∧ 9 < (slotAt 0#4 10#4).len.toNat := by decide

theorem witness_FrameChecksumRange : (slotAt 0#4 10#4).feedbackFlag.toNat ≤ 1 := by decide

theorem witness_SetIsIdempotent :
    ∃ t, exec (.set .tx 0xFF#8 0xFFFF#16 true) (stateAt 0#4) = .next t := ⟨_, rfl⟩

theorem witness_RecvAtHeaderPositionsScansTheTemplate :
    ((stateAt 0#4).slot .tx).pos = 0#4 ∧ ((stateAt 1#4).slot .tx).pos = 1#4 ∧
    ((stateAt 2#4).slot .tx).pos = 2#4 ∧
    (2#4, 0x06#8) ∈ [((0#4 : Nibble), (0x7E#8 : Byte)), (1#4, 0xFF#8), (2#4, 0x06#8)] := by decide

theorem witness_RecvAtBufferedPositionsStoresVerbatim :
    (8#4, { (stateAt 8#4).slot .tx with checksumLo := 0xEF#8 }) ∈
      [((3#4 : Nibble), { (stateAt 8#4).slot .tx with commandId := 0xEF#8 }),
       (4#4, { (stateAt 8#4).slot .tx with feedbackFlag := 0xEF#8 }),
       (5#4, { (stateAt 8#4).slot .tx with paramHi := 0xEF#8 }),
       (6#4, { (stateAt 8#4).slot .tx with paramLo := 0xEF#8 }),
       (8#4, { (stateAt 8#4).slot .tx with checksumLo := 0xEF#8 })] ∧
    ((stateAt 3#4).slot .tx).pos = 3#4 ∧ ((stateAt 4#4).slot .tx).pos = 4#4 ∧
    ((stateAt 5#4).slot .tx).pos = 5#4 ∧ ((stateAt 6#4).slot .tx).pos = 6#4 ∧
    ((stateAt 8#4).slot .tx).pos = 8#4 := by decide

theorem witness_RecvAtPositionSevenDecidesTheForm : ((stateAt 7#4).slot .tx).pos = 7#4 := by decide

theorem witness_RecvAtPositionNineCompletesTheLongForm : ((stateAt 9#4).slot .tx).pos = 9#4 := by decide

theorem witness_RecvOutOfRangeStartsAfresh :
    9 < ((stateAt 10#4).slot .tx).pos.toNat ∧ 9 < ((stateAt 15#4).slot .tx).pos.toNat := by decide

theorem witness_ScannerBuffersWithoutTest :
    (slotAt 3#4 10#4).pos.toNat = 3 ∧ (slotAt 4#4 10#4).pos.toNat = 4 ∧
    (slotAt 5#4 10#4).pos.toNat = 5 ∧ (slotAt 6#4 10#4).pos.toNat = 6 ∧
    (slotAt 8#4 10#4).pos.toNat = 8 := by decide

theorem witness_RecvCompletesOnlyAtSevenOrNine :
    answerOf (.recv .tx 0xEF#8) (stateAt 7#4) = some (.performed 1) ∧
    answerOf (.recv .tx 0xEF#8) (stateAt 9#4) = some (.performed 1) ∧
    answerOf (.recv .tx 0xEF#8) (stateAt 8#4) = some (.performed 0) := by decide

theorem witness_ValidRightAfterCompletion :
    (∃ t, exec (.recv .tx 0xEF#8) (stateAt 7#4) = .next t ∧ t.answer = some (.performed 1#16)) ∧
    ∃ t, exec (.recv .tx 0xEF#8) (stateAt 9#4) = .next t ∧ t.answer = some (.performed 1#16) :=
  ⟨⟨_, rfl, by decide⟩, _, rfl, by decide⟩

theorem witness_NoiseWithoutStartByteChangesNothing :
    ((stateAt 0#4).slot .tx).pos = 0#4 ∧ 9 < ((stateAt 15#4).slot .tx).pos.toNat ∧
    0x7E#8 ∉ [0x00#8, 0xEF#8, 0xFF#8, 0x06#8, 0x12#8] := by decide

theorem witness_ShortFrameIsReceivedFromOpenPosition :
    ((stateAt 2#4).slot .tx).atOpenPos ∧ ((stateAt 9#4).slot .tx).atOpenPos := by decide

theorem witness_LongFrameIsReceivedFromOpenPosition :
    ((stateAt 0#4).slot .tx).atOpenPos ∧ ((stateAt 15#4).slot .tx).atOpenPos ∧
    0xFE#8 ≠ 0xEF#8 := by decide

/-- Eight bytes of a short frame (S2), and ten of a long one (S1). -/
theorem witness_CompletionMeansAFrameWasJustReceived :
    ((stateAt 0#4).slot .tx).pos = 0#4 ∧
    (∃ t, trace 8 (stateWith (recvInputs .tx (shortFrame 0x3A 0x00 0x00 0x07))) =
      some (List.replicate 7 (some (.performed 0#16)) ++ [some (.performed 1#16)], t)) ∧
    ∃ t, trace 10 (stateWith (recvInputs .tx (longFrame 0x06 0x01 0x00 0x14 0xFE 0xE0))) =
      some (List.replicate 9 (some (.performed 0#16)) ++ [some (.performed 1#16)], t) :=
  ⟨rfl, ⟨_, rfl⟩, _, rfl⟩

/-- A reception at position 7, one at position 9 and one out of range, each with the bytes just fed. -/
theorem witness_RecvStepKeepsTheFedBytesInTheSlot :
    (slotAt 7#4 10#4).tracks [0x00, 0x7E, 0xFF, 0x06, 0x06, 0x01, 0x00, 0x14] ∧
    (slotAt 9#4 10#4).tracks [0x7E, 0xFF, 0x06, 0x06, 0x01, 0x00, 0x14, 0xFE, 0xE0] ∧
    (slotAt 15#4 10#4).tracks [] ∧
    (let s := { stateAt 7#4 with inputs := [.command (encode (.recv .tx 0xEF#8))] }
     (s.slot .tx).tracks [0x7E, 0xFF, 0x06, 0x06, 0x01, 0x00, 0x14] ∧
      ∃ t, step s = .next t ∧ t.answer = some (.performed 1#16)) :=
  ⟨by decide, by decide, by decide, by decide, _, rfl, by decide⟩

theorem witness_RoundTripFromEncoderToDecoder :
    ∃ t, exec (.set .tx 0x12#8 0x1234#16 true) { stateAt 0#4 with rx := slotAt 9#4 8#4 } = .next t ∧
      (t.slot .rx).atOpenPos := ⟨_, rfl, by decide⟩

theorem witness_SixBytesReachAnOpenPosition :
    [0x7E#8, 0x7E#8, 0x7E#8, 0x7E#8, 0x7E#8, 0x7E#8].length = 6 ∧
    ¬ ((stateAt 3#4).slot .tx).atOpenPos := by decide

theorem witness_FieldReadersAnswerTheirRegister :
    (Instr.getplo .tx, 0x14) ∈ [(Instr.getlen .tx, ((stateAt 0#4).slot .tx).len.toNat),
      (.getcmd .tx, ((stateAt 0#4).slot .tx).commandId.toNat),
      (.getfb .tx, ((stateAt 0#4).slot .tx).feedbackFlag.toNat),
      (.getphi .tx, ((stateAt 0#4).slot .tx).paramHi.toNat),
      (.getplo .tx, ((stateAt 0#4).slot .tx).paramLo.toNat)] := by decide

theorem witness_GetbyteAnswersTheByteAtTheIndex :
    (9#4, 0xEF#8) ∈ [((0#4 : Nibble), (0x7E#8 : Byte)), (1#4, 0xFF#8), (2#4, 0x06#8),
      (3#4, ((stateAt 0#4).slot .tx).commandId), (4#4, ((stateAt 0#4).slot .tx).feedbackFlag),
      (5#4, ((stateAt 0#4).slot .tx).paramHi), (6#4, ((stateAt 0#4).slot .tx).paramLo),
      (7#4, ((stateAt 0#4).slot .tx).checksumHi), (8#4, ((stateAt 0#4).slot .tx).checksumLo),
      (9#4, 0xEF#8)] := by decide

theorem witness_GetbyteOutOfRangeIsRefused : 9 < (10#4 : Nibble).toNat ∧ 9 < (15#4 : Nibble).toNat := by
  decide

theorem witness_FieldReadersAgreeWithGetbyte :
    answerOf (.getparam .tx) (stateAt 0#4) = some (.performed 0x0014) ∧
    answerOf (.getphi .tx) (stateAt 0#4) = some (.performed 0x00) ∧
    answerOf (.getplo .tx) (stateAt 0#4) = some (.performed 0x14) := by decide

/-- Each of the three premises about the operation is met, and so is a change of `len` by `SET`. -/
theorem witness_WhoWritesWhichRegister :
    (∃ t, exec (.set .rx 0#8 0#16 false) (stateAt 0#4) = .next t ∧
      (t.slot .rx).len ≠ ((stateAt 0#4).slot .rx).len) ∧
    (∃ t, exec (.recv .tx 0xEF#8) (stateAt 7#4) = .next t ∧
      (t.slot .tx).len ≠ ((stateAt 7#4).slot .tx).len) ∧
    (Instr.valid .tx).op ≠ .set ∧ (Instr.valid .tx).op ≠ .recv :=
  ⟨⟨_, rfl, by decide⟩, ⟨_, rfl, by decide⟩, by decide, by decide⟩

/-- Two states that differ in `RX` alone. -/
theorem witness_SlotsDoNotInterfere :
    (stateAt 7#4).slot .tx = ({ stateAt 7#4 with rx := slotAt 0#4 0#4 } : State).slot .tx ∧
    (stateAt 7#4).rx ≠ ({ stateAt 7#4 with rx := slotAt 0#4 0#4 } : State).rx ∧
    (∃ t, exec (.recv .tx 0xEF#8) (stateAt 7#4) = .next t) ∧
    ∃ t, exec (.recv .tx 0xEF#8) { stateAt 7#4 with rx := slotAt 0#4 0#4 } = .next t :=
  ⟨by decide, by decide, ⟨_, rfl⟩, _, rfl⟩

end Sys2Proof.Machine.Tests
end

section
/-! Proofs of the frame buffer's 16-bit values (spec/20_memory.md: R24, R25): the positions that hold
them, what `SET` leaves there, and the value of the two bytes together. -/

namespace Sys2Proof.Machine

/-! ### The positions of the param and of the checksum (R10, R23) -/

@[simp] theorem FrameSlot.readByte_five (f : FrameSlot) : f.readByte 5#4 = some f.paramHi := rfl
@[simp] theorem FrameSlot.readByte_six (f : FrameSlot) : f.readByte 6#4 = some f.paramLo := rfl
@[simp] theorem FrameSlot.readByte_seven (f : FrameSlot) : f.readByte 7#4 = some f.checksumHi := rfl
@[simp] theorem FrameSlot.readByte_eight (f : FrameSlot) : f.readByte 8#4 = some f.checksumLo := rfl

/-! ### The registers `SET` leaves in a slot (R53) -/

section
variable (f : FrameSlot) (cmd : Byte) (param : Half) (fb : Bool)

@[simp] theorem FrameSlot.encodeFrame_paramHi :
    (f.encodeFrame cmd param fb).paramHi = highByte param := rfl

@[simp] theorem FrameSlot.encodeFrame_paramLo :
    (f.encodeFrame cmd param fb).paramLo = lowByte param := rfl

/-- The checksum that `SET` stores is the `frame_ck` (R50) of the slot it leaves. -/
@[simp] theorem FrameSlot.encodeFrame_checksumHi :
    (f.encodeFrame cmd param fb).checksumHi = highByte (f.encodeFrame cmd param fb).frameCk := rfl

@[simp] theorem FrameSlot.encodeFrame_checksumLo :
    (f.encodeFrame cmd param fb).checksumLo = lowByte (f.encodeFrame cmd param fb).frameCk := rfl

end

/-! ### The 16-bit values by arithmetic on the bytes read -/

theorem FrameSlot.param_toNat_of_readByte {f : FrameSlot} {hi lo : Byte}
    (h5 : f.readByte 5#4 = some hi) (h6 : f.readByte 6#4 = some lo) :
    f.param.toNat = hi.toNat * 256 + lo.toNat := by
  obtain rfl : f.paramHi = hi := Option.some.inj h5
  obtain rfl : f.paramLo = lo := Option.some.inj h6
  exact joinBytes_toNat f.paramHi f.paramLo

theorem FrameSlot.storedChecksum_toNat_of_readByte {f : FrameSlot} {hi lo : Byte}
    (h7 : f.readByte 7#4 = some hi) (h8 : f.readByte 8#4 = some lo) :
    f.storedChecksum.toNat = hi.toNat * 256 + lo.toNat := by
  obtain rfl : f.checksumHi = hi := Option.some.inj h7
  obtain rfl : f.checksumLo = lo := Option.some.inj h8
  exact joinBytes_toNat f.checksumHi f.checksumLo

/-- Settles O16: the halves `SET` stores, and the value of the two bytes of any slot. -/
theorem paramIsStoredBigEndian : Obligations.ParamIsStoredBigEndian := by
  intro f cmd param fb
  refine ⟨?high, ?low, fun _ _ => FrameSlot.param_toNat_of_readByte⟩
  case high => rw [FrameSlot.readByte_five, FrameSlot.encodeFrame_paramHi, highByte]
  case low => rw [FrameSlot.readByte_six, FrameSlot.encodeFrame_paramLo, lowByte]

/-- Settles O17: `SET` stores the halves of the checksum of the very slot it leaves, and the stored
checksum of any slot is the value of its two bytes. -/
theorem checksumIsStoredBigEndian : Obligations.ChecksumIsStoredBigEndian := by
  intro f cmd param fb ck
  refine ⟨?high, ?low, fun _ _ => FrameSlot.storedChecksum_toNat_of_readByte⟩
  case high => rw [FrameSlot.readByte_seven, FrameSlot.encodeFrame_checksumHi, highByte]
  case low => rw [FrameSlot.readByte_eight, FrameSlot.encodeFrame_checksumLo, lowByte]

end Sys2Proof.Machine
end

section
/-! Proof of the checksum generator's defining formula (spec/40_checksum.md: R47). -/

namespace Sys2Proof.Machine

/-- Six bytes never wrap (R48), so reducing their sum modulo 65536 leaves it as it is. -/
theorem sumBytes_mod_eq (b1 b2 b3 b4 b5 b6 : Byte) :
    sumBytes b1 b2 b3 b4 b5 b6 % 65536 = sumBytes b1 b2 b3 b4 b5 b6 :=
  Nat.mod_eq_of_lt ((sumBytes_le b1 b2 b3 b4 b5 b6).trans_lt (by decide))

/-- Settles O19: the sum does not wrap, so `cksum16_toNat` is the formula of R47; R47's worked example
is computed. -/
theorem cksumIsNegatedSumOfSixBytes : Obligations.CksumIsNegatedSumOfSixBytes := by
  refine ⟨?formula, ?workedExample⟩
  case formula =>
    intro b1 b2 b3 b4 b5 b6 sum
    have no_wrap : sum = sumBytes b1 b2 b3 b4 b5 b6 := sumBytes_mod_eq b1 b2 b3 b4 b5 b6
    rw [cksum16_toNat, no_wrap]
  case workedExample => decide

end Sys2Proof.Machine
end

section
/-! Proofs of the scanner's normalisation and of its buffered positions (spec/42_decoder.md: R58, R61). -/

namespace Sys2Proof.Machine

/-! ### Reading the frame buffer after a write (R23) -/

/-- The position of the scanner is not part of the frame buffer. -/
@[simp] theorem FrameSlot.readByte_withPos (f : FrameSlot) (p i : Nibble) :
    ({ f with pos := p } : FrameSlot).readByte i = f.readByte i := rfl

/-- A position that names a register reads back the byte stored there. -/
theorem FrameSlot.readByte_writeByte_same (f : FrameSlot) {p : Nibble} (b : Byte)
    (hp : 3 ≤ p.toNat ∧ p.toNat ≤ 8) : (f.writeByte p b).readByte p = some b := by
  have named : p = 3#4 ∨ p = 4#4 ∨ p = 5#4 ∨ p = 6#4 ∨ p = 7#4 ∨ p = 8#4 := by bv_omega
  obtain rfl | rfl | rfl | rfl | rfl | rfl := named <;> rfl

/-- A store leaves every other position as it was: it changes at most the register it names, and that
register is read at its own position alone. -/
theorem FrameSlot.readByte_writeByte_of_ne (f : FrameSlot) {i p : Nibble} (b : Byte) (h : i ≠ p) :
    (f.writeByte p b).readByte i = f.readByte i := by
  have toNat_ne : i.toNat ≠ p.toNat := fun e => h (BitVec.eq_of_toNat_eq e)
  unfold FrameSlot.writeByte
  split
  case h_7 => rfl
  all_goals
    next hp =>
      rw [hp] at toNat_ne
      unfold FrameSlot.readByte
      cases template i with
      | some c => rfl
      | none => dsimp only; split <;> trivial

theorem FrameSlot.readByte_writeByte (f : FrameSlot) {p : Nibble} (b : Byte)
    (hp : 3 ≤ p.toNat ∧ p.toNat ≤ 8) (i : Nibble) :
    (f.writeByte p b).readByte i = if i = p then some b else f.readByte i := by
  split
  · next h => rw [h, FrameSlot.readByte_writeByte_same f b hp]
  · next h => exact FrameSlot.readByte_writeByte_of_ne f b h

/-- Settles O30: in range the position stays, and out of range both slots look for the start byte. -/
theorem scannerNormalisesPosition : Obligations.ScannerNormalisesPosition := by
  intro f b
  by_cases h : f.pos.toNat ≤ 9
  case pos => rw [if_pos h]
  case neg =>
    have hf : normalisePos f.pos = 0#4 := normalisePos_of_gt (Nat.not_le.mp h)
    rw [if_neg h, FrameSlot.receive_at_start b hf, FrameSlot.receive_at_start b rfl]

/-- Settles O31: at these positions the scanner stores the byte, advances and does nothing else, so the
claim is the read-after-write rule of the buffer. -/
theorem scannerBuffersWithoutTest : Obligations.ScannerBuffersWithoutTest := by
  rintro f b p hp rfl
  have buffered : f.pos = 3#4 ∨ f.pos = 4#4 ∨ f.pos = 5#4 ∨ f.pos = 6#4 ∨ f.pos = 8#4 := by bv_omega
  have advance : (f.pos + 1#4).toNat = f.pos.toNat + 1 := by bv_omega
  rw [FrameSlot.receive_at_buffered b buffered]
  refine ⟨rfl, advance, FrameSlot.writeByte_len f f.pos b, fun j => ?_⟩
  rw [FrameSlot.readByte_withPos, FrameSlot.readByte_writeByte f b (by omega)]

end Sys2Proof.Machine
end

section
/-! Proofs about command words (spec/30_encoding.md: R41, R42, R44): the encoder and the decoder are
inverse to each other, and the decoder is R42's table of masks. -/

namespace Sys2Proof.Machine

/-! ### Fields of a word, put back in their place -/

/-- The bits that a field of `n` bits from bit `lo` up takes in a word. -/
def fieldMask (lo n : Nat) : Word := place lo (BitVec.allOnes n)

/-- A field taken out of a word and put back is the word with every other bit cleared. -/
theorem place_extractLsb' (w : Word) (lo n : Nat) :
    place lo (w.extractLsb' lo n) = w &&& fieldMask lo n := by
  ext j hj
  by_cases h : lo ≤ j
  · simp [place, fieldMask, hj, Nat.add_sub_cancel' h, Bool.and_comm, Bool.and_assoc]
  · simp [place, fieldMask, Nat.not_le.mp h]

theorem and_not_eq_self_of_and_eq_zero {w m : Word} (h : w &&& m = 0#32) : w &&& ~~~m = w := by
  calc w &&& ~~~m = w &&& m ||| w &&& ~~~m := by rw [h, BitVec.zero_or]
    _ = w := by rw [← BitVec.and_or_distrib_left, BitVec.or_not_self, BitVec.and_allOnes]

/-! ### Encoding and decoding -/

/-- The select field of an encoded operation, for all ten operations. -/
theorem opField_encode (i : Instr) : opField (encode i) = i.op.code := by
  cases i with
  | set sl cmd param fb => exact Laws.SelectField.set sl cmd param fb
  | recv sl b => exact Laws.SelectField.recv sl b
  | valid sl => exact Laws.SelectField.valid sl
  | getlen sl => exact Laws.SelectField.getlen sl
  | getbyte sl i => exact Laws.SelectField.getbyte sl i
  | getcmd sl => exact Laws.SelectField.getcmd sl
  | getfb sl => exact Laws.SelectField.getfb sl
  | getparam sl => exact Laws.SelectField.getparam sl
  | getphi sl => exact Laws.SelectField.getphi sl
  | getplo sl => exact Laws.SelectField.getplo sl

/-- The operands read from the word of an operation are the operation's own. -/
theorem withOperands_encode (i : Instr) : i.op.withOperands (encode i) = i := by
  cases i <;>
    simp [Instr.op, Op.withOperands, slotField_encode, Instr.slotId, cmdField_encode_set,
      paramField_encode_set, fbField_encode_set, byteField_encode_recv, indexField_encode_getbyte]

@[simp] theorem decode_encode (i : Instr) : decode (encode i) = .ok i :=
  (decode_eq_ok_iff _ _).mpr
    ⟨i.op, opField_encode i, encode_and_mustBeZero i, (withOperands_encode i).symm⟩

/-- The encoder keeps the fields of a word and drops what is outside them, the must-be-zero bits of the
word's format. -/
theorem encode_withOperands {w : Word} {op : Op} (hop : opField w = op.code) :
    encode (op.withOperands w) = w &&& ~~~op.mustBeZero := by
  have select_slot : encodeN op (slotField w) = w &&& (fieldMask 28 4 ||| fieldMask 27 1) := by
    rw [encodeN, ← hop, opField, slotBit_slotField, place_extractLsb', place_extractLsb',
      BitVec.and_or_distrib_left]
  cases op <;>
    simp only [Op.withOperands, encode, select_slot, fbBit_fbField, cmdField, paramField, byteField,
      indexField, place_extractLsb', ← BitVec.and_or_distrib_left] <;>
    rfl

theorem encode_eq_of_decode {w : Word} {i : Instr} (h : decode w = .ok i) : encode i = w := by
  obtain ⟨op, hop, hzero, rfl⟩ := (decode_eq_ok_iff w i).mp h
  rw [encode_withOperands hop, and_not_eq_self_of_and_eq_zero hzero]

/-- Settles O1. -/
theorem decodeOfEncodeIsTheOperation : Obligations.DecodeOfEncodeIsTheOperation := decode_encode

/-- Settles O2: re-encoding clears only bits that the decoder found to be zero. -/
theorem decodedWordIsTheEncodedWord : Obligations.DecodedWordIsTheEncodedWord :=
  fun _ _ => encode_eq_of_decode

/-! ### The decoder by the mask and match columns of R42 -/

/-- The select of a row, by the four top bits of the row's match. -/
theorem opField_eq_code_iff (w : Word) (op : Op) :
    opField w = op.code ↔ w &&& 0xF0000000#32 = (maskMatch op).2 := by
  have row : (maskMatch op).2 = place 28 op.code := by cases op <;> rfl
  have select : w &&& 0xF0000000#32 = place 28 (opField w) := (place_extractLsb' w 28 4).symm
  rw [row, select]
  generalize opField w = c
  generalize op.code = d
  revert c d
  decide

/-- A row's mask covers the select and the must-be-zero bits, and its match has no bit of the latter. -/
theorem and_mask_eq_match_iff (w : Word) (op : Op) :
    w &&& (maskMatch op).1 = (maskMatch op).2 ↔ opField w = op.code ∧ w &&& op.mustBeZero = 0#32 := by
  have mask : (maskMatch op).1 = 0xF0000000#32 ||| op.mustBeZero := by cases op <;> rfl
  have mask_select : (maskMatch op).1 &&& 0xF0000000#32 = 0xF0000000#32 := by cases op <;> rfl
  have mask_zero : (maskMatch op).1 &&& op.mustBeZero = op.mustBeZero := by cases op <;> rfl
  have match_select : (maskMatch op).2 &&& 0xF0000000#32 = (maskMatch op).2 := by cases op <;> rfl
  have match_zero : (maskMatch op).2 &&& op.mustBeZero = 0#32 := by cases op <;> rfl
  rw [opField_eq_code_iff]
  constructor
  · intro h
    constructor
    · rw [← match_select, ← h, BitVec.and_assoc, mask_select]
    · rw [← match_zero, ← h, BitVec.and_assoc, mask_zero]
  · rintro ⟨hselect, hzero⟩
    rw [mask, BitVec.and_or_distrib_left, hselect, hzero, BitVec.or_zero]

/-- A word spells an operation of a row exactly when its select and its must-be-zero bits are the
row's. -/
theorem exists_decode_eq_ok_iff (w : Word) (op : Op) :
    (∃ i, decode w = .ok i ∧ i.op = op) ↔ opField w = op.code ∧ w &&& op.mustBeZero = 0#32 := by
  constructor
  · rintro ⟨i, h, rfl⟩
    obtain ⟨op, hop, hzero, rfl⟩ := (decode_eq_ok_iff w i).mp h
    rw [Op.op_withOperands]
    exact ⟨hop, hzero⟩
  · rintro ⟨hop, hzero⟩
    exact ⟨op.withOperands w, (decode_eq_ok_iff w _).mpr ⟨op, hop, hzero, rfl⟩,
      Op.op_withOperands op w⟩

/-- Settles O3. -/
theorem wordSpellsOperationIffMaskMatches : Obligations.WordSpellsOperationIffMaskMatches :=
  fun w op => (exists_decode_eq_ok_iff w op).trans (and_mask_eq_match_iff w op).symm

/-! ### Words that spell nothing -/

theorem decode_of_opOfCode_none {w : Word} (h : opOfCode (opField w) = none) :
    decode w = .error .reservedOp := by
  simp [decode, h]

theorem decode_of_opField {w : Word} {op : Op} (h : opField w = op.code) :
    decode w =
      if w &&& op.mustBeZero = 0#32 then .ok (op.withOperands w) else .error .nonzeroReservedBits := by
  simp [decode, h]

/-- Every select is reserved or the code of an operation. -/
theorem opField_cases (w : Word) : opOfCode (opField w) = none ∨ ∃ op : Op, opField w = op.code := by
  cases h : opOfCode (opField w) with
  | none => exact .inl rfl
  | some op => exact .inr ⟨op, (opOfCode_eq_some_iff _ op).mp h⟩

theorem decode_eq_reservedOp_iff (w : Word) :
    decode w = .error .reservedOp ↔ opOfCode (opField w) = none := by
  refine ⟨fun h => ?_, decode_of_opOfCode_none⟩
  obtain hnone | ⟨op, hop⟩ := opField_cases w
  · exact hnone
  · rw [decode_of_opField hop] at h
    split at h <;> simp at h

theorem decode_eq_nonzeroReservedBits_iff (w : Word) :
    decode w = .error .nonzeroReservedBits ↔
      ∃ op : Op, opField w = op.code ∧ w &&& op.mustBeZero ≠ 0#32 := by
  constructor
  · intro h
    obtain hnone | ⟨op, hop⟩ := opField_cases w
    · simp [decode_of_opOfCode_none hnone] at h
    · refine ⟨op, hop, fun hzero => ?_⟩
      simp [decode_of_opField hop, hzero] at h
  · rintro ⟨op, hop, hnonzero⟩
    rw [decode_of_opField hop, if_neg hnonzero]

theorem decode_ne_badIndex (w : Word) : decode w ≠ .error .badIndex := by
  obtain hnone | ⟨op, hop⟩ := opField_cases w
  · simp [decode_of_opOfCode_none hnone]
  · rw [decode_of_opField hop]
    split <;> simp

/-- Settles O4: the decoder examines the select before the must-be-zero bits, so each reason has its own
condition. -/
theorem undecodableWordReasons : Obligations.UndecodableWordReasons := by
  intro w
  refine ⟨?reserved, ?nonzero, decode_ne_badIndex w⟩
  case reserved => rw [decode_eq_reservedOp_iff, opOfCode_eq_none_iff, opField]
  case nonzero =>
    rw [decode_eq_nonzeroReservedBits_iff]
    refine exists_congr fun op => ?_
    rw [← opField_eq_code_iff, Ne, Ne, and_mask_eq_match_iff]
    exact and_congr_right fun hop => by simp [hop]

/-- Settles O5: the nine words are computed. -/
theorem specExampleWordsDecode : Obligations.SpecExampleWordsDecode := by
  refine ⟨?_, ?_, ?_, ?_, ?_, ?_, ?_, ?_, ?_⟩ <;> rfl

end Sys2Proof.Machine
end

section
/-! What an operation does, said once for all ten: it gives its own slot new contents and an answer,
both computed from that slot alone. The rules of the whole block follow (spec/10_state.md: R12 to R16,
R19; spec/60_exceptions.md: R81, R82). -/

namespace Sys2Proof.Machine

/-! ### An operation as a function of its own slot -/

/-- The reply of `GETBYTE` for what the buffer has at an index (R74). -/
def getbyteAnswer : Option Byte → Answer
  | some v => .performed (byteResult v)
  | none => .refused .badIndex

/-- What an operation makes of its slot, and its answer. -/
def onSlot (f : FrameSlot) : Instr → FrameSlot × Answer
  | .set _ cmd param fb => (f.encodeFrame cmd param fb, .performed 0#16)
  | .recv _ b => ((f.receive b).1, .performed (bitResult (f.receive b).2))
  | .valid _ => (f, .performed (bitResult f.isValid))
  | .getlen _ => (f, .performed (lenResult f.len))
  | .getbyte _ i => (f, getbyteAnswer (f.readByte i))
  | .getcmd _ => (f, .performed (byteResult f.commandId))
  | .getfb _ => (f, .performed (byteResult f.feedbackFlag))
  | .getparam _ => (f, .performed f.param)
  | .getphi _ => (f, .performed (byteResult f.paramHi))
  | .getplo _ => (f, .performed (byteResult f.paramLo))

/-- The state with a slot's new contents and the answer to the operation that gave them. -/
def State.withResult (s : State) (sl : SlotId) (r : FrameSlot × Answer) : State :=
  { s.setSlot sl r.1 with answer := some r.2 }

section
variable (s : State) (sl : SlotId) (r : FrameSlot × Answer)

@[simp] theorem State.withResult_answer : (s.withResult sl r).answer = some r.2 := rfl

@[simp] theorem State.withResult_inputs : (s.withResult sl r).inputs = s.inputs := by
  cases sl <;> rfl

@[simp] theorem State.withResult_slot_self : (s.withResult sl r).slot sl = r.1 := by
  cases sl <;> rfl

theorem State.withResult_slot_of_ne {o : SlotId} (h : o ≠ sl) :
    (s.withResult sl r).slot o = s.slot o := by
  rw [← s.slot_setSlot_of_ne r.1 h]
  cases o <;> rfl

theorem updatesSlot_withResult : UpdatesSlot s (s.withResult sl r) sl r.1 :=
  ⟨s.withResult_slot_self sl r, fun _ => s.withResult_slot_of_ne sl r, s.withResult_inputs sl r⟩

theorem State.withResult_of_slot_eq {sl : SlotId} {a : Answer} :
    s.withResult sl (s.slot sl, a) = { s with answer := some a } := by
  cases sl <;> rfl

end

/-- The one lemma about `exec`: every operation completes, and `onSlot` is all that it does. -/
theorem exec_eq (i : Instr) (s : State) :
    exec i s = .next (s.withResult i.slotId (onSlot (s.slot i.slotId) i)) := by
  cases i with
  | set => rfl
  | recv => rfl
  | getbyte sl i =>
    simp only [onSlot, Instr.slotId, State.withResult_of_slot_eq]
    simp only [exec, execGetbyte]
    cases (s.slot sl).readByte i <;> rfl
  | _ => simp only [onSlot, Instr.slotId, State.withResult_of_slot_eq]; rfl

theorem eq_withResult_of_exec {i : Instr} {s t : State} (h : exec i s = .next t) :
    t = s.withResult i.slotId (onSlot (s.slot i.slotId) i) := by
  rw [exec_eq] at h
  exact (Host.Outcome.next.inj h).symm

section
variable {i : Instr} {s t : State} (h : exec i s = .next t)
include h

theorem slot_of_exec : t.slot i.slotId = (onSlot (s.slot i.slotId) i).1 := by
  rw [eq_withResult_of_exec h, State.withResult_slot_self]

theorem slot_of_exec_of_ne {o : SlotId} (ho : o ≠ i.slotId) : t.slot o = s.slot o := by
  rw [eq_withResult_of_exec h, State.withResult_slot_of_ne _ _ _ ho]

theorem answer_of_exec : t.answer = some (onSlot (s.slot i.slotId) i).2 := by
  rw [eq_withResult_of_exec h, State.withResult_answer]

end

/-- Only `SET` and `RECV` give a slot new contents (R12, R13, R15). -/
theorem onSlot_fst_of_reader (f : FrameSlot) {i : Instr} (hset : i.op ≠ .set) (hrecv : i.op ≠ .recv) :
    (onSlot f i).1 = f := by
  cases i with
  | set => exact absurd rfl hset
  | recv => exact absurd rfl hrecv
  | _ => rfl

theorem sameSlots_withAnswer (s : State) (a : Answer) : SameSlots s { s with answer := some a } :=
  ⟨rfl, rfl, rfl⟩

/-- An operation other than `SET` and `RECV` only answers. -/
theorem exec_of_reader {i : Instr} (s : State) (hset : i.op ≠ .set) (hrecv : i.op ≠ .recv) :
    exec i s = .next { s with answer := some (onSlot (s.slot i.slotId) i).2 } := by
  have unchanged : onSlot (s.slot i.slotId) i = (s.slot i.slotId, (onSlot (s.slot i.slotId) i).2) :=
    Prod.ext (onSlot_fst_of_reader _ hset hrecv) rfl
  rw [exec_eq, unchanged]
  exact congrArg _ s.withResult_of_slot_eq

/-! ### One step -/

theorem step_of_command {s : State} {w : Word} {rest : List HostInput}
    (h : s.inputs = .command w :: rest) : step s = performWord w { s with inputs := rest } := by
  simp [step, runNextInput, h, takeInput]

theorem step_of_reset {s : State} {payload : ResetPayload} {rest : List HostInput}
    (h : s.inputs = .reset payload :: rest) : step s = .next (State.resetWith payload rest) := by
  simp [step, runNextInput, h, takeInput, State.assertReset]

theorem step_of_no_inputs {s : State} (h : s.inputs = []) : step s = .next s := by
  simp [step, runNextInput, h]

theorem performWord_of_decode_ok {w : Word} {i : Instr} (s : State) (h : decode w = .ok i) :
    performWord w s = exec i s := by
  simp [performWord, h]

theorem performWord_of_decode_error {w : Word} {why : RefusedReason} (s : State)
    (h : decode w = .error why) : performWord w s = .next (s.refuse why) := by
  simp [performWord, h]

/-- All that a step can do: nothing, a refusal, an operation, or a reset. -/
theorem step_cases (s : State) :
    (s.inputs = [] ∧ step s = .next s) ∨
    (∃ why, step s = .next ({ s with inputs := s.inputs.tail }.refuse why)) ∨
    (∃ i, step s = exec i { s with inputs := s.inputs.tail }) ∨
    (∃ payload, step s = .next (State.resetWith payload s.inputs.tail)) := by
  cases h : s.inputs with
  | nil => exact .inl ⟨rfl, step_of_no_inputs h⟩
  | cons input rest =>
    right
    cases input with
    | reset payload => exact .inr (.inr ⟨payload, step_of_reset h⟩)
    | command w =>
      cases hw : decode w with
      | error why =>
        exact .inl ⟨why, (step_of_command h).trans (performWord_of_decode_error _ hw)⟩
      | ok i =>
        exact .inr (.inl ⟨i, (step_of_command h).trans (performWord_of_decode_ok _ hw)⟩)

/-! ### The form of the state (R14, R16) -/

/-- After a reset a slot is `afterReset` of its part of the payload. -/
theorem State.exists_slot_resetWith (payload : ResetPayload) (inputs : List HostInput) (sl : SlotId) :
    ∃ p, (State.resetWith payload inputs).slot sl = FrameSlot.afterReset p := by
  cases sl
  · exact ⟨payload.tx, rfl⟩
  · exact ⟨payload.rx, rfl⟩

theorem FrameSlot.wf_afterReset (p : PayloadBytes) : (FrameSlot.afterReset p).wf :=
  ⟨.inl rfl, Nat.zero_le 9⟩

theorem FrameSlot.wf_encodeFrame {f : FrameSlot} (h : f.wf) (cmd : Byte) (param : Half) (fb : Bool) :
    (f.encodeFrame cmd param fb).wf :=
  ⟨.inr (.inr rfl), h.2⟩

theorem FrameSlot.wf_receive {f : FrameSlot} (h : f.wf) (b : Byte) : (f.receive b).1.wf := by
  obtain ⟨hpos, ⟨_, hlen⟩ | ⟨_, _, _, ⟨_, hlen⟩ | ⟨_, hlen⟩⟩⟩ := f.receive_len_pos b
  · exact ⟨hlen ▸ h.1, hpos⟩
  · exact ⟨.inr (.inl hlen), hpos⟩
  · exact ⟨.inr (.inr hlen), hpos⟩

theorem onSlot_wf {f : FrameSlot} (h : f.wf) (i : Instr) : (onSlot f i).1.wf := by
  cases i with
  | set _ cmd param fb => exact FrameSlot.wf_encodeFrame h cmd param fb
  | recv _ b => exact FrameSlot.wf_receive h b
  | _ => exact h

theorem State.wf_iff (s : State) : s.wf ↔ ∀ sl, (s.slot sl).wf :=
  ⟨fun h sl => by cases sl <;> [exact h.1; exact h.2], fun h => ⟨h .tx, h .rx⟩⟩

theorem exec_wf {i : Instr} {s t : State} (hs : s.wf) (h : exec i s = .next t) : t.wf := by
  rw [State.wf_iff] at hs ⊢
  intro sl
  by_cases hsl : sl = i.slotId
  · rw [hsl, slot_of_exec h]
    exact onSlot_wf (hs i.slotId) i
  · rw [slot_of_exec_of_ne h hsl]
    exact hs sl

theorem State.wf_resetWith (payload : ResetPayload) (inputs : List HostInput) :
    (State.resetWith payload inputs).wf :=
  ⟨FrameSlot.wf_afterReset payload.tx, FrameSlot.wf_afterReset payload.rx⟩

/-- Settles O14: refusals and idle steps change no slot, a reset gives `len = pos = 0`, and each operation
keeps the form of its slot. -/
theorem stepKeepsLegalLengthAndPosition : Obligations.StepKeepsLegalLengthAndPosition := by
  intro s t hs hstep
  obtain ⟨_, h⟩ | ⟨why, h⟩ | ⟨i, h⟩ | ⟨payload, h⟩ := step_cases s <;> rw [h] at hstep
  · exact Host.Outcome.next.inj hstep ▸ hs
  · exact Host.Outcome.next.inj hstep ▸ hs
  · exact exec_wf (s := { s with inputs := s.inputs.tail }) hs hstep
  · exact Host.Outcome.next.inj hstep ▸ State.wf_resetWith payload s.inputs.tail

/-- Settles O13. -/
theorem resetHasLegalLengthAndPosition : Obligations.ResetHasLegalLengthAndPosition :=
  ⟨State.wf_resetWith Config.resetPayload [], State.wf_resetWith⟩

/-! ### Steps answer, and refuse only by value -/

/-- Settles O10. -/
theorem everyStepAnswersNextAndTakesOneInput : Obligations.EveryStepAnswersNextAndTakesOneInput := by
  intro s
  obtain ⟨hnil, h⟩ | ⟨why, h⟩ | ⟨i, h⟩ | ⟨payload, h⟩ := step_cases s
  · exact ⟨s, h, by rw [hnil, List.tail_nil]⟩
  · exact ⟨_, h, rfl⟩
  · rw [exec_eq] at h
    exact ⟨_, h, State.withResult_inputs _ _ _⟩
  · exact ⟨_, h, rfl⟩

theorem readByte_eq_none_iff (f : FrameSlot) (i : Nibble) : f.readByte i = none ↔ 9 < i.toNat := by
  obtain ⟨n, hn⟩ := i
  interval_cases n <;> simp [FrameSlot.readByte, template]

theorem getbyteAnswer_err_iff (v : Option Byte) : (getbyteAnswer v).err = true ↔ v = none := by
  cases v <;> simp [getbyteAnswer, Answer.err]

/-- Settles O11: every operation but `GETBYTE` is answered as performed, and `GETBYTE` is refused where
the buffer has no byte. -/
theorem onlyBadIndexIsRefusedByValue : Obligations.OnlyBadIndexIsRefusedByValue := by
  intro i s
  refine ⟨_, _, exec_eq i s, State.withResult_answer _ _ _, ?_⟩
  cases i with
  | getbyte sl idx =>
    simp [onSlot, getbyteAnswer_err_iff, readByte_eq_none_iff]
  | _ => simp [onSlot, Answer.err]

/-- Settles O6. -/
theorem stepPerformsTheDecodedOperation : Obligations.StepPerformsTheDecodedOperation :=
  fun _ _ _ _ hin hw => (step_of_command hin).trans (performWord_of_decode_ok _ hw)

/-- Settles O7. -/
theorem undecodableWordIsRefusedWithoutEffect : Obligations.UndecodableWordIsRefusedWithoutEffect :=
  fun _ _ _ _ hin hw =>
    ⟨_, _, (step_of_command hin).trans (performWord_of_decode_error _ hw), rfl, rfl, rfl, rfl, rfl, rfl,
      rfl⟩

/-- Settles O8. -/
theorem resetPinResetsBothSlots : Obligations.ResetPinResetsBothSlots :=
  fun _ _ _ hin => ⟨_, step_of_reset hin, rfl, rfl, rfl, rfl⟩

/-- Settles O9. -/
theorem idleHostLeavesEverythingUnchanged : Obligations.IdleHostLeavesEverythingUnchanged :=
  fun _ => step_of_no_inputs

/-! ### Rules of the whole block -/

theorem onSlot_pos {i : Instr} (f : FrameSlot) (hrecv : i.op ≠ .recv) : (onSlot f i).1.pos = f.pos := by
  cases i with
  | recv => exact absurd rfl hrecv
  | _ => rfl

/-- `len` changes to 10 by `SET`, or to 8 or 10 by a `RECV` that answers 1 (R13). -/
theorem onSlot_len_cases (f : FrameSlot) (i : Instr) :
    (onSlot f i).1.len = f.len ∨ (i.op = .set ∧ (onSlot f i).1.len = 10#4) ∨
    (i.op = .recv ∧ (onSlot f i).2 = .performed 1#16 ∧
      ((onSlot f i).1.len = 8#4 ∨ (onSlot f i).1.len = 10#4)) := by
  cases i with
  | set => exact .inr (.inl ⟨rfl, rfl⟩)
  | recv sl b =>
    obtain ⟨_, ⟨_, hlen⟩ | ⟨hdone, _, _, hlen⟩⟩ := f.receive_len_pos b
    · exact .inl hlen
    · refine .inr (.inr ⟨rfl, by simp [onSlot, hdone, bitResult], hlen.imp And.right And.right⟩)
  | _ => exact .inl rfl

/-- Settles O47: no operation touches a slot but its own, and there `onSlot` says what changes. -/
theorem whoWritesWhichRegister : Obligations.WhoWritesWhichRegister := by
  intro i s t h
  refine ⟨fun hset hrecv => ?reader, fun hrecv sl => ?pos, fun sl hlen => ?len⟩
  case reader =>
    rw [exec_of_reader s hset hrecv] at h
    exact Host.Outcome.next.inj h ▸ sameSlots_withAnswer s _
  case pos =>
    by_cases hsl : sl = i.slotId
    · rw [hsl, slot_of_exec h, onSlot_pos _ hrecv]
    · rw [slot_of_exec_of_ne h hsl]
  case len =>
    have own_slot : sl = i.slotId := by
      by_contra hsl
      exact hlen (by rw [slot_of_exec_of_ne h hsl])
    subst own_slot
    rw [slot_of_exec h] at hlen ⊢
    rw [answer_of_exec h, Option.some_inj]
    exact ⟨rfl, (onSlot_len_cases _ i).resolve_left hlen⟩

/-- Settles O48: the slot's new contents and the answer are `onSlot` of the slot. -/
theorem slotsDoNotInterfere : Obligations.SlotsDoNotInterfere := by
  intro i s₁ s₂ t₁ t₂ h₁ h₂ hslot
  refine ⟨?_, ?_, fun _ => slot_of_exec_of_ne h₁⟩
  · rw [slot_of_exec h₁, slot_of_exec h₂, hslot]
  · rw [answer_of_exec h₁, answer_of_exec h₂, hslot]

theorem slotField_eq (w : Word) : slotField w = if w.getLsbD 27 then .rx else .tx := by
  have bit : w.extractLsb' 27 1 = BitVec.ofBool (w.getLsbD 27) := by
    ext j hj
    obtain rfl : j = 0 := by omega
    simp
  rw [slotField, bit]
  cases w.getLsbD 27 <;> rfl

/-- Settles O49: the operation acts on the slot of its word's bit 27. -/
theorem selectorBitNamesTheSlot : Obligations.SelectorBitNamesTheSlot := by
  intro s w i h
  obtain ⟨op, -, -, rfl⟩ := (decode_eq_ok_iff w i).mp h
  rw [Op.slotId_withOperands, slotField_eq]
  split <;> rfl

end Sys2Proof.Machine
end

section
/-! Proofs about the frame buffer as a list of bytes (spec/10_state.md: R10 to R12; spec/41_encoder.md:
R56), the checksum's laws (spec/40_checksum.md: R48 to R52) and `SET` (R53). -/

namespace Sys2Proof.Machine

/-! ### The frame a buffer holds -/

/-- All ten positions of a buffer, as a long frame. -/
def FrameSlot.frame (f : FrameSlot) : List Byte :=
  longFrame f.commandId f.feedbackFlag f.paramHi f.paramLo f.checksumHi f.checksumLo

theorem FrameSlot.frame_length (f : FrameSlot) : f.frame.length = 10 := rfl

theorem FrameSlot.frame_getElem? (f : FrameSlot) {i : Nat} (h : i < 16) :
    f.frame[i]? = f.readByte (BitVec.ofNat 4 i) := by
  interval_cases i <;> rfl

/-- Reading positions in ascending order gives the buffer's first bytes. -/
theorem FrameSlot.filterMap_readByte_range (f : FrameSlot) {n : Nat} (h : n ≤ 16) :
    ((List.range n).filterMap fun i => f.readByte (BitVec.ofNat 4 i)) = f.frame.take n := by
  interval_cases n <;> rfl

theorem FrameSlot.readOut_eq (f : FrameSlot) : f.readOut = f.frame.take f.len.toNat :=
  f.filterMap_readByte_range f.len.isLt.le

theorem FrameSlot.received_eq (f : FrameSlot) :
    f.received = f.frame.take (normalisePos f.pos).toNat :=
  f.filterMap_readByte_range (normalisePos f.pos).isLt.le

/-- Settles O15: the read-after-write rule of the buffer, with the constants of R11. -/
theorem bufferWriteIsReadBackAlone : Obligations.BufferWriteIsReadBackAlone :=
  fun f i j v hlow hhigh =>
    ⟨f.readByte_writeByte v ⟨hlow, hhigh⟩ j, f.writeByte_len i v, f.writeByte_pos i v, rfl, rfl, rfl,
      rfl⟩

/-- Settles O18: the read-out is the first `len` bytes of the frame in the buffer. -/
theorem readOutIsTheFirstLenPositions : Obligations.ReadOutIsTheFirstLenPositions := by
  intro f hlen
  rw [FrameSlot.readOut_eq]
  refine ⟨?_, fun i hi => ?_⟩
  · rw [List.length_take, FrameSlot.frame_length, Nat.min_eq_left hlen]
  · rw [List.getElem?_take_of_lt hi, FrameSlot.frame_getElem? f (by omega)]

/-! ### Bytes by arithmetic -/

theorem highByte_eq_ofNat (v : Half) : highByte v = BitVec.ofNat 8 (v.toNat / 256) := by
  rw [← highByte_toNat, BitVec.ofNat_toNat, BitVec.setWidth_eq]

theorem lowByte_eq_ofNat (v : Half) : lowByte v = BitVec.ofNat 8 (v.toNat % 256) := by
  rw [← lowByte_toNat, BitVec.ofNat_toNat, BitVec.setWidth_eq]

theorem byteResult_eq_ofNat (v : Byte) : byteResult v = BitVec.ofNat 16 v.toNat :=
  (BitVec.ofNat_toNat 16 v).symm

theorem byteResult_toNat (v : Byte) : (byteResult v).toNat = v.toNat :=
  BitVec.toNat_setWidth_of_le (by decide)

theorem byteResult_highByte (v : Half) :
    byteResult (highByte v) = BitVec.ofNat 16 (v.toNat / 256) := by
  rw [byteResult_eq_ofNat, highByte_toNat]

theorem byteResult_lowByte (v : Half) : byteResult (lowByte v) = BitVec.ofNat 16 (v.toNat % 256) := by
  rw [byteResult_eq_ofNat, lowByte_toNat]

theorem lenResult_eq_ofNat (v : Nibble) : lenResult v = BitVec.ofNat 16 v.toNat :=
  (BitVec.ofNat_toNat 16 v).symm

theorem joinBytes_eq_ofNat (h l : Byte) : joinBytes h l = BitVec.ofNat 16 (h.toNat * 256 + l.toNat) := by
  rw [← joinBytes_toNat, BitVec.ofNat_toNat, BitVec.setWidth_eq]

theorem feedbackByte_eq_ofNat (fb : Bool) : feedbackByte fb = BitVec.ofNat 8 (if fb then 1 else 0) := by
  cases fb <;> rfl

theorem feedbackByte_toNat (fb : Bool) : (feedbackByte fb).toNat = if fb then 1 else 0 := by
  cases fb <;> rfl

theorem byteResult_feedbackByte (fb : Bool) :
    byteResult (feedbackByte fb) = if fb then 1#16 else 0#16 := by
  cases fb <;> rfl

/-! ### The checksum's laws -/

theorem cksum16_eq_neg (b1 b2 b3 b4 b5 b6 : Byte) :
    cksum16 b1 b2 b3 b4 b5 b6 = -BitVec.ofNat 16 (sumBytes b1 b2 b3 b4 b5 b6) := by
  apply BitVec.eq_of_toNat_eq
  rw [cksum16_toNat, BitVec.toNat_neg, BitVec.toNat_ofNat, sumBytes_mod_eq]

/-- The value that brings a sum to 0 modulo 65536 is its negation in 16 bits (R49). -/
theorem add_mod_eq_zero_iff_eq_neg (n : Nat) (v : Half) :
    (n + v.toNat) % 65536 = 0 ↔ v = -BitVec.ofNat 16 n := by
  have := v.isLt
  rw [← BitVec.toNat_inj, BitVec.toNat_neg, BitVec.toNat_ofNat]
  omega

/-- Settles O20: each form is the negation of the sum in 16 bits. -/
theorem cksumIsTheUniqueAdditiveInverse : Obligations.CksumIsTheUniqueAdditiveInverse := by
  intro b1 b2 b3 b4 b5 b6 sum
  have is_neg : cksum16 b1 b2 b3 b4 b5 b6 = -BitVec.ofNat 16 sum := cksum16_eq_neg b1 b2 b3 b4 b5 b6
  rw [is_neg]
  refine ⟨sumBytes_le b1 b2 b3 b4 b5 b6, ?_, ?_, add_mod_eq_zero_iff_eq_neg sum⟩
  · rw [BitVec.zero_sub]
  · rw [BitVec.neg_eq_not_add]

theorem FrameSlot.frameCk_toNat (f : FrameSlot) :
    f.frameCk.toNat = 65536 - (0x105 + f.commandId.toNat + f.feedbackFlag.toNat + f.paramHi.toNat +
      f.paramLo.toNat) :=
  cksum16_frame_toNat f.commandId f.feedbackFlag f.paramHi f.paramLo

/-- Settles O21: the sum is between 0x0105 and 0x0105 + 4 * 255. -/
theorem frameChecksumRange : Obligations.FrameChecksumRange := by
  intro f
  have hck := f.frameCk_toNat
  have hhigh := highByte_toNat f.frameCk
  have := f.commandId.isLt; have := f.feedbackFlag.isLt
  have := f.paramHi.isLt; have := f.paramLo.isLt
  have not_START : highByte f.frameCk ≠ 0x7E#8 := fun e => by
    rw [e, BitVec.toNat_ofNat] at hhigh; omega
  refine ⟨?_, ?_, ?_, ?_, ?_, highByte_cksum16_frame_ne_END _ _ _ _, not_START⟩ <;> omega

/-! ### `SET` (R53) -/

/-- The sum that `SET` takes its checksum of, by arithmetic on the operands. -/
theorem FrameSlot.encodeFrame_frameCk_toNat (f : FrameSlot) (cmd : Byte) (param : Half) (fb : Bool) :
    (f.encodeFrame cmd param fb).frameCk.toNat =
      65536 - (0xFF + 0x06 + cmd.toNat + (if fb then 1 else 0) + param.toNat / 256 +
        param.toNat % 256) := by
  rw [FrameSlot.frameCk_toNat, FrameSlot.encodeFrame_paramHi, FrameSlot.encodeFrame_paramLo,
    highByte_toNat, lowByte_toNat, ← feedbackByte_toNat]
  rfl

/-- `SET` leaves a slot that holds its operands and their checksum. -/
theorem FrameSlot.encodeFrame_eq (f : FrameSlot) (cmd : Byte) (param : Half) (fb : Bool) :
    f.encodeFrame cmd param fb =
      { commandId := cmd
        feedbackFlag := feedbackByte fb
        paramHi := highByte param
        paramLo := lowByte param
        checksumHi := highByte (f.encodeFrame cmd param fb).frameCk
        checksumLo := lowByte (f.encodeFrame cmd param fb).frameCk
        len := 10#4
        pos := f.pos } := rfl

/-- Settles O22: the slot afterwards is `encodeFrame`, whose bytes are the stated arithmetic. -/
theorem setAssemblesALongFrame : Obligations.SetAssemblesALongFrame := by
  intro sl cmd param fb s fbv ck
  refine ⟨_, exec_eq _ _, ?_, State.withResult_answer _ _ _⟩
  have bytes := (s.slot sl).encodeFrame_eq cmd param fb
  rw [feedbackByte_eq_ofNat, highByte_eq_ofNat, lowByte_eq_ofNat, highByte_eq_ofNat, lowByte_eq_ofNat,
    FrameSlot.encodeFrame_frameCk_toNat] at bytes
  exact bytes ▸ updatesSlot_withResult s sl _

/-- Settles O24: `encodeFrame` takes nothing but `pos` from the slot, and leaves it. -/
theorem setIsIdempotent : Obligations.SetIsIdempotent := by
  intro sl cmd param fb s t h
  obtain rfl := eq_withResult_of_exec h
  cases sl <;> rfl

end Sys2Proof.Machine
end

section
/-! Proofs about `VALID` and the readers (spec/43_validate_read.md: R71 to R80). -/

namespace Sys2Proof.Machine

/-! ### The readers -/

theorem exists_exec_of_reader {i : Instr} (s : State) (hset : i.op ≠ .set) (hrecv : i.op ≠ .recv) :
    ∃ t, exec i s = .next t ∧ SameSlots s t ∧
      t.answer = some (onSlot (s.slot i.slotId) i).2 :=
  ⟨_, exec_of_reader s hset hrecv, sameSlots_withAnswer s _, rfl⟩

/-- Settles O42. -/
theorem fieldReadersAnswerTheirRegister : Obligations.FieldReadersAnswerTheirRegister := by
  intro sl s i n hmem
  have reader : i.op ≠ .set ∧ i.op ≠ .recv ∧
      (onSlot (s.slot i.slotId) i).2 = .performed (BitVec.ofNat 16 n) := by
    simp only [List.mem_cons, Prod.mk.injEq, List.not_mem_nil, or_false] at hmem
    obtain ⟨rfl, rfl⟩ | ⟨rfl, rfl⟩ | ⟨rfl, rfl⟩ | ⟨rfl, rfl⟩ | ⟨rfl, rfl⟩ := hmem <;>
      simp [Instr.op, Instr.slotId, onSlot, lenResult_eq_ofNat, byteResult_eq_ofNat]
  obtain ⟨hset, hrecv, hanswer⟩ := reader
  exact hanswer ▸ exists_exec_of_reader s hset hrecv

/-- Settles O43. -/
theorem getparamAnswersTheBigEndianParam : Obligations.GetparamAnswersTheBigEndianParam := by
  intro sl s
  rw [← joinBytes_eq_ofNat]
  exact exists_exec_of_reader (i := .getparam sl) s nofun nofun

/-- Settles O44: `GETBYTE` answers the byte that the buffer reads as. -/
theorem getbyteAnswersTheByteAtTheIndex : Obligations.GetbyteAnswersTheByteAtTheIndex := by
  intro sl s i v hmem
  have read : (s.slot sl).readByte i = some v := by
    simp only [List.mem_cons, Prod.mk.injEq, List.not_mem_nil, or_false] at hmem
    obtain ⟨rfl, rfl⟩ | ⟨rfl, rfl⟩ | ⟨rfl, rfl⟩ | ⟨rfl, rfl⟩ | ⟨rfl, rfl⟩ | ⟨rfl, rfl⟩ | ⟨rfl, rfl⟩ |
      ⟨rfl, rfl⟩ | ⟨rfl, rfl⟩ | ⟨rfl, rfl⟩ := hmem <;> rfl
  obtain ⟨t, hexec, hslots, hanswer⟩ :=
    exists_exec_of_reader (i := .getbyte sl i) s nofun nofun
  refine ⟨t, hexec, hslots, ?_⟩
  rw [hanswer, Instr.slotId, onSlot, read, getbyteAnswer, byteResult_eq_ofNat]

/-- Settles O45: the buffer has no byte there. -/
theorem getbyteOutOfRangeIsRefused : Obligations.GetbyteOutOfRangeIsRefused := by
  intro sl s i hi
  obtain ⟨t, hexec, hslots, hanswer⟩ :=
    exists_exec_of_reader (i := .getbyte sl i) s nofun nofun
  refine ⟨t, .refused .badIndex, hexec, hslots, ?_, rfl, rfl, rfl⟩
  rw [hanswer, Instr.slotId, onSlot, (readByte_eq_none_iff _ i).mpr hi, getbyteAnswer]

/-- A performed reader's answer, taken out of its next state. -/
theorem val_eq_of_exec {i : Instr} {s t : State} {v w : Half} (h : exec i s = .next t)
    (hv : (onSlot (s.slot i.slotId) i).2 = .performed v) (hw : t.answer = some (.performed w)) :
    w = v := by
  rw [answer_of_exec h, hv] at hw
  exact (Answer.performed.inj (Option.some.inj hw)).symm

/-- Settles O46: the field readers read what `GETBYTE` reads at their index, and the param is the two
bytes joined. -/
theorem fieldReadersAgreeWithGetbyte : Obligations.FieldReadersAgreeWithGetbyte := by
  intro sl s
  refine ⟨rfl, rfl, rfl, rfl, fun t u v p h l ht hu hv hp hh hl => ?_⟩
  obtain rfl := val_eq_of_exec ht rfl hp
  obtain rfl := val_eq_of_exec hu rfl hh
  obtain rfl := val_eq_of_exec hv rfl hl
  have := (s.slot sl).paramHi.isLt
  have := (s.slot sl).paramLo.isLt
  simp only [byteResult_toNat, Instr.slotId, FrameSlot.param, joinBytes_toNat]
  omega

/-! ### `VALID` -/

/-- The stored checksum is the frame's own exactly when it brings the six summed bytes to 0 (R52). -/
theorem FrameSlot.storedChecksum_eq_frameCk_iff (f : FrameSlot) :
    f.storedChecksum = f.frameCk ↔
      (0xFF + 0x06 + f.commandId.toNat + f.feedbackFlag.toNat + f.paramHi.toNat + f.paramLo.toNat +
        f.checksumHi.toNat * 256 + f.checksumLo.toNat) % 65536 = 0 := by
  rw [FrameSlot.frameCk, cksum16_eq_neg, ← add_mod_eq_zero_iff_eq_neg, FrameSlot.storedChecksum,
    joinBytes_toNat, ← Nat.add_assoc]
  rfl

theorem FrameSlot.isValid_of_short {f : FrameSlot} (h : f.len = 8#4) :
    f.isValid = true ↔ f.checksumHi = END := by
  simp [FrameSlot.isValid, h]

theorem FrameSlot.isValid_of_long {f : FrameSlot} (h : f.len = 10#4) :
    f.isValid = true ↔ f.storedChecksum = f.frameCk := by
  simp [FrameSlot.isValid, h]

theorem FrameSlot.isValid_iff (f : FrameSlot) :
    f.isValid = true ↔
      (f.len = 8#4 ∧ f.checksumHi = END) ∨ (f.len = 10#4 ∧ f.storedChecksum = f.frameCk) := by
  by_cases h8 : f.len = 8#4
  · simp [FrameSlot.isValid_of_short h8, h8]
  · by_cases h10 : f.len = 10#4
    · simp [FrameSlot.isValid_of_long h10, h10]
    · simp [FrameSlot.isValid, h8, h10]

theorem bitResult_eq_one_or_zero (v : Bool) : bitResult v = 1#16 ∨ bitResult v = 0#16 := by
  cases v
  · exact .inr rfl
  · exact .inl rfl

/-- Settles O41. -/
theorem validTestsTheFormThatLenNames : Obligations.ValidTestsTheFormThatLenNames := by
  intro sl s f
  obtain ⟨t, hexec, hslots, hanswer⟩ :=
    exists_exec_of_reader (i := .valid sl) s nofun nofun
  refine ⟨t, bitResult f.isValid, hexec, hslots, hanswer, bitResult_eq_one_or_zero _, ?_⟩
  rw [bitResult_eq_one_iff, FrameSlot.isValid_iff, FrameSlot.storedChecksum_eq_frameCk_iff]

/-! ### Right after reset (R20, R98) -/

/-- Settles O12: the six readers see `len`, `pos` and the constants, never a payload byte. -/
theorem afterResetNoFrameIsHeld : Obligations.AfterResetNoFrameIsHeld := by
  intro payload inputs sl
  obtain ⟨p, hp⟩ := State.exists_slot_resetWith payload inputs sl
  refine ⟨by rw [hp]; rfl, by rw [hp]; rfl, fun i v hmem => ?_⟩
  have reader : i.op ≠ .set ∧ i.op ≠ .recv ∧ i.slotId = sl ∧
      (onSlot (FrameSlot.afterReset p) i).2 = .performed v := by
    simp only [List.mem_cons, Prod.mk.injEq, List.not_mem_nil, or_false] at hmem
    obtain ⟨rfl, rfl⟩ | ⟨rfl, rfl⟩ | ⟨rfl, rfl⟩ | ⟨rfl, rfl⟩ | ⟨rfl, rfl⟩ | ⟨rfl, rfl⟩ := hmem <;>
      exact ⟨nofun, nofun, rfl, rfl⟩
  obtain ⟨hset, hrecv, rfl, hanswer⟩ := reader
  rw [exec_of_reader _ hset hrecv, hp, hanswer]

end Sys2Proof.Machine
end

section
/-! Proofs about `RECV`, position by position (spec/42_decoder.md: R58 to R64, R72). -/

namespace Sys2Proof.Machine

/-- `RECV` does to the state what the scanner does to the slot (R57). -/
theorem exec_recv_of_receive {s : State} {sl : SlotId} {b : Byte} {f : FrameSlot} {done : Bool}
    (h : (s.slot sl).receive b = (f, done)) :
    ∃ t, exec (.recv sl b) s = .next t ∧ UpdatesSlot s t sl f ∧
      t.answer = some (.performed (bitResult done)) := by
  refine ⟨_, exec_eq _ _, ?_, ?_⟩
  · simpa [onSlot, h, Instr.slotId] using updatesSlot_withResult s sl (onSlot (s.slot sl) (.recv sl b))
  · simp [onSlot, h, Instr.slotId]

/-- The three header positions follow one rule (R59): match, restart or discard. -/
theorem FrameSlot.receive_at_template {f : FrameSlot} {p : Nibble} {c : Byte} (b : Byte)
    (h : (p = 0#4 ∧ c = START) ∨ (p = 1#4 ∧ c = VERSION) ∨ (p = 2#4 ∧ c = LENGTH)) (hp : f.pos = p) :
    f.receive b =
      ({ f with pos := if b = c then p + 1#4 else if b = START then 1#4 else 0#4 }, false) := by
  subst hp
  obtain ⟨hp, rfl⟩ | h := h
  · rw [FrameSlot.receive_at_start b (by rw [hp]; rfl), hp]
    split <;> rfl
  · exact FrameSlot.receive_at_header b h

/-- Settles O25. -/
theorem recvAtHeaderPositionsScansTheTemplate :
    Obligations.RecvAtHeaderPositionsScansTheTemplate := by
  intro sl b s p c hmem hp
  exact exec_recv_of_receive (FrameSlot.receive_at_template b (by simpa using hmem) hp)

/-- Settles O26: the register of the position is the one that `writeByte` writes there. -/
theorem recvAtBufferedPositionsStoresVerbatim :
    Obligations.RecvAtBufferedPositionsStoresVerbatim := by
  intro sl b s p f hmem hp
  have stored : (p = 3#4 ∨ p = 4#4 ∨ p = 5#4 ∨ p = 6#4 ∨ p = 8#4) ∧
      (s.slot sl).writeByte p b = f := by
    simp only [List.mem_cons, Prod.mk.injEq, List.not_mem_nil, or_false] at hmem
    obtain ⟨rfl, rfl⟩ | ⟨rfl, rfl⟩ | ⟨rfl, rfl⟩ | ⟨rfl, rfl⟩ | ⟨rfl, rfl⟩ := hmem <;>
      exact ⟨by decide, rfl⟩
  obtain ⟨buffered, rfl⟩ := stored
  subst hp
  exact exec_recv_of_receive (FrameSlot.receive_at_buffered b buffered)

/-- Settles O27. -/
theorem recvAtPositionSevenDecidesTheForm : Obligations.RecvAtPositionSevenDecidesTheForm := by
  intro sl b s hp
  have h := FrameSlot.receive_at_seven b hp
  by_cases hb : b = END
  · rw [if_pos hb] at h
    simpa [hb, bitResult] using exec_recv_of_receive h
  · rw [if_neg hb] at h
    simpa [hb, bitResult] using exec_recv_of_receive h

/-- Settles O28. -/
theorem recvAtPositionNineCompletesTheLongForm :
    Obligations.RecvAtPositionNineCompletesTheLongForm := by
  intro sl b s hp
  have h := FrameSlot.receive_at_end b hp
  by_cases hb : b = END
  · rw [if_pos hb] at h
    simpa [hb, bitResult, START_ne_END.symm] using exec_recv_of_receive h
  · rw [if_neg hb] at h
    simpa [hb, bitResult] using exec_recv_of_receive h

/-- Settles O29. -/
theorem recvOutOfRangeStartsAfresh : Obligations.RecvOutOfRangeStartsAfresh :=
  fun _ b _ hp => exec_recv_of_receive (FrameSlot.receive_at_start b (normalisePos_of_gt hp))

/-! ### Completions (R62, R64) -/

theorem FrameSlot.receive_completed_iff (f : FrameSlot) (b : Byte) :
    (f.receive b).2 = true ↔ b = END ∧ (f.pos = 7#4 ∨ f.pos = 9#4) := by
  constructor
  · intro done
    obtain ⟨_, ⟨not_done, _⟩ | ⟨_, hb, _, hpos⟩⟩ := f.receive_len_pos b
    · rw [not_done] at done
      contradiction
    · exact ⟨hb, hpos.imp And.left And.left⟩
  · rintro ⟨rfl, hp | hp⟩
    · rw [FrameSlot.receive_at_seven _ hp, if_pos rfl]
    · rw [FrameSlot.receive_at_end _ hp, if_pos rfl]

theorem answer_one_iff_of_exec_recv {sl : SlotId} {b : Byte} {s t : State}
    (h : exec (.recv sl b) s = .next t) :
    t.answer = some (.performed 1#16) ↔ ((s.slot sl).receive b).2 = true := by
  rw [answer_of_exec h, ← bitResult_eq_one_iff]
  simp [onSlot, Instr.slotId]

theorem slot_of_exec_recv {sl : SlotId} {b : Byte} {s t : State} (h : exec (.recv sl b) s = .next t) :
    t.slot sl = ((s.slot sl).receive b).1 :=
  slot_of_exec h

/-- Settles O32. -/
theorem recvCompletesOnlyAtSevenOrNine : Obligations.RecvCompletesOnlyAtSevenOrNine := by
  intro sl b s t h
  rw [answer_one_iff_of_exec_recv h, Ne, answer_one_iff_of_exec_recv h, slot_of_exec_recv h]
  refine ⟨FrameSlot.receive_completed_iff _ b, ?_⟩
  obtain ⟨_, ⟨not_done, hlen⟩ | ⟨done, _, _, hlen⟩⟩ := (s.slot sl).receive_len_pos b
  · refine ⟨fun _ => ⟨?_, hlen⟩, fun done => ?_⟩
    · simp [answer_of_exec h, onSlot, Instr.slotId, not_done, bitResult]
    · rw [not_done] at done
      contradiction
  · refine ⟨fun not_done => absurd done not_done, fun _ => ?_⟩
    obtain ⟨hp, hlen⟩ | ⟨hp, hlen⟩ := hlen <;> rw [hlen, hp] <;> rfl

/-- Settles O33: a completion at position 7 has just stored the end constant, and one at position 9 leaves
the test to the checksum. -/
theorem validRightAfterCompletion : Obligations.ValidRightAfterCompletion := by
  intro sl b s t h hone
  rw [answer_one_iff_of_exec_recv h] at hone
  obtain ⟨rfl, _⟩ := (FrameSlot.receive_completed_iff _ b).mp hone
  obtain ⟨u, hexec, _, hanswer⟩ :=
    exists_exec_of_reader (i := .valid sl) t nofun nofun
  have answer_iff : u.answer = some (.performed 1#16) ↔ (t.slot sl).isValid = true := by
    rw [hanswer, ← bitResult_eq_one_iff]
    simp [onSlot, Instr.slotId]
  have hslot := slot_of_exec_recv h
  refine ⟨u, hexec, fun hp => ?short, fun hp => ?long⟩
  case short =>
    rw [FrameSlot.receive_at_seven _ hp, if_pos rfl] at hslot
    exact answer_iff.mpr ((FrameSlot.isValid_of_short (by rw [hslot])).mpr (by rw [hslot]))
  case long =>
    rw [FrameSlot.receive_at_end _ hp, if_pos rfl] at hslot
    rw [answer_iff, FrameSlot.isValid_of_long (by rw [hslot]), FrameSlot.storedChecksum_eq_frameCk_iff]

end Sys2Proof.Machine
end

section
/-! Proofs about streams of commands (spec/42_decoder.md: R65 to R67, R69; spec/41_encoder.md: R54;
spec/70_reset_and_hazards.md: R95): a run of commands on one slot is that slot's own run, and a run of
`RECV` is the scanner over the bytes. -/

namespace Sys2Proof.Machine

/-! ### A run of commands on one slot -/

/-- The operations performed on one slot in order: what they leave there, and their answers. -/
def runSlot : FrameSlot → List Instr → FrameSlot × List Answer
  | f, [] => (f, [])
  | f, i :: is => ((runSlot (onSlot f i).1 is).1, (onSlot f i).2 :: (runSlot (onSlot f i).1 is).2)

theorem runSlot_cons (f : FrameSlot) (i : Instr) (is : List Instr) :
    runSlot f (i :: is) =
      ((runSlot (onSlot f i).1 is).1, (onSlot f i).2 :: (runSlot (onSlot f i).1 is).2) := rfl

theorem runSlot_append (f : FrameSlot) (is js : List Instr) :
    runSlot f (is ++ js) =
      ((runSlot (runSlot f is).1 js).1, (runSlot f is).2 ++ (runSlot (runSlot f is).1 js).2) := by
  induction is generalizing f with
  | nil => rfl
  | cons i is ih => simp [runSlot_cons, ih]

/-- Operations that leave the slot as it is each answer from the same contents. -/
theorem runSlot_of_readers {f : FrameSlot} {is : List Instr} (h : ∀ i ∈ is, (onSlot f i).1 = f) :
    runSlot f is = (f, is.map fun i => (onSlot f i).2) := by
  induction is with
  | nil => rfl
  | cons i is ih =>
    obtain ⟨hi, his⟩ := List.forall_mem_cons.mp h
    rw [runSlot_cons, hi, ih his, List.map_cons]

theorem runSlot_recv (sl : SlotId) (f : FrameSlot) (bs : List Byte) :
    runSlot f (bs.map fun b => .recv sl b) =
      ((f.feed bs).1, (f.feed bs).2.map fun done => .performed (bitResult done)) := by
  induction bs generalizing f with
  | nil => rfl
  | cons b bs ih => simp [runSlot_cons, FrameSlot.feed_cons, onSlot, ih]

theorem commandInputs_append (is js : List Instr) :
    commandInputs (is ++ js) = commandInputs is ++ commandInputs js :=
  List.map_append

theorem State.withResult_withInputs (s : State) (sl : SlotId) (r : FrameSlot × Answer)
    (inputs : List HostInput) :
    ({ s with inputs := inputs } : State).withResult sl r =
      { s.withResult sl r with inputs := inputs } := by
  cases sl <;> rfl

theorem step_commandInputs_cons (s : State) (i : Instr) (is : List Instr) (rest : List HostInput) :
    step { s with inputs := commandInputs (i :: is) ++ rest } =
      .next { s.withResult i.slotId (onSlot (s.slot i.slotId) i) with
              inputs := commandInputs is ++ rest } := by
  rw [step_of_command (rest := commandInputs is ++ rest) rfl,
    performWord_of_decode_ok _ (decode_encode i), exec_eq]
  exact congrArg _ (State.withResult_withInputs s i.slotId _ _)

/-- The machine given commands on one slot runs that slot, and nothing else happens. -/
theorem exists_trace_commandInputs {sl : SlotId} {is : List Instr} (h : ∀ i ∈ is, i.slotId = sl)
    (s : State) (rest : List HostInput) :
    ∃ t, trace is.length { s with inputs := commandInputs is ++ rest } =
        some ((runSlot (s.slot sl) is).2.map some, t) ∧ t.inputs = rest ∧
      t.slot sl = (runSlot (s.slot sl) is).1 ∧ ∀ o, o ≠ sl → t.slot o = s.slot o := by
  induction is generalizing s with
  | nil => exact ⟨_, rfl, rfl, s.slot_withInputs sl rest, fun o _ => s.slot_withInputs o rest⟩
  | cons i is ih =>
    obtain ⟨rfl, his⟩ := List.forall_mem_cons.mp h
    obtain ⟨t, htrace, hinputs, hslot, hother⟩ :=
      ih his (s.withResult i.slotId (onSlot (s.slot i.slotId) i))
    rw [State.withResult_slot_self] at htrace hslot
    refine ⟨t, ?_, hinputs, hslot, fun o ho => ?_⟩
    · rw [List.length_cons, trace_succ_of_next _ (step_commandInputs_cons s i is rest), htrace]
      rfl
    · rw [hother o ho, State.withResult_slot_of_ne _ _ _ ho]

/-- The machine fed bytes on one slot is the scanner over those bytes. -/
theorem exists_trace_recvInputs {s : State} {sl : SlotId} {bs : List Byte} {f : FrameSlot}
    {done : List Bool} (h : (s.slot sl).feed bs = (f, done)) (rest : List HostInput) :
    ∃ t, trace bs.length { s with inputs := recvInputs sl bs ++ rest } =
        some (done.map fun d => some (.performed (bitResult d)), t) ∧ t.inputs = rest ∧
      t.slot sl = f ∧ ∀ o, o ≠ sl → t.slot o = s.slot o := by
  have on_slot : ∀ i ∈ bs.map (fun b => Instr.recv sl b), i.slotId = sl := by
    simp [Instr.slotId]
  have run := exists_trace_commandInputs on_slot s rest
  rwa [runSlot_recv, h, List.length_map, List.map_map] at run

/-- The same with nothing after the bytes. -/
theorem exists_trace_feed {s : State} {sl : SlotId} {bs : List Byte} {f : FrameSlot}
    {done : List Bool} (h : (s.slot sl).feed bs = (f, done)) :
    ∃ t, trace bs.length { s with inputs := recvInputs sl bs } =
        some (done.map fun d => some (.performed (bitResult d)), t) ∧ t.inputs = [] ∧
      t.slot sl = f ∧ ∀ o, o ≠ sl → t.slot o = s.slot o := by
  have run := exists_trace_recvInputs h []
  rwa [List.append_nil] at run

/-! ### Noise (R65) -/

theorem FrameSlot.feed_noise {f : FrameSlot} {bs : List Byte} (hp : normalisePos f.pos = 0#4)
    (hbs : START ∉ bs) :
    f.feed bs =
      ({ f with pos := if bs = [] then f.pos else 0#4 }, List.replicate bs.length false) := by
  induction bs generalizing f with
  | nil => rfl
  | cons b bs ih =>
    obtain ⟨hb, hbs⟩ := List.ne_and_not_mem_of_not_mem_cons hbs
    have discard : f.receive b = ({ f with pos := 0#4 }, false) := by
      rw [FrameSlot.receive_at_start b hp, if_neg hb.symm]
    rw [FrameSlot.feed_cons, discard, ih rfl hbs]
    simp [List.replicate_succ]

/-- Settles O34. -/
theorem noiseWithoutStartByteChangesNothing : Obligations.NoiseWithoutStartByteChangesNothing := by
  intro s sl bs hpos hbs
  have at_start : normalisePos (s.slot sl).pos = 0#4 := by
    obtain hp | hp := hpos
    · rw [hp]; rfl
    · exact normalisePos_of_gt hp
  have run := exists_trace_feed (FrameSlot.feed_noise at_start hbs)
  rwa [List.map_replicate] at run

/-! ### Whole frames (R66) -/

/-- The scanner takes a short frame in from any open position. -/
theorem FrameSlot.feed_shortFrame {f : FrameSlot} (h : f.atOpenPos) (c fl hi lo : Byte) :
    f.feed (shortFrame c fl hi lo) =
      ({ commandId := c, feedbackFlag := fl, paramHi := hi, paramLo := lo, checksumHi := END,
         checksumLo := f.checksumLo, len := 8#4, pos := 0#4 },
       List.replicate 7 false ++ [true]) := by
  rw [shortFrame, FrameSlot.feed_header h, FrameSlot.feed_payload rfl, FrameSlot.feed_cons,
    FrameSlot.receive_at_seven _ rfl, if_pos rfl]
  rfl

/-- From any open position, the bytes of a frame whose position 7 is not the end constant are taken in
up to position 9, whatever its checksum is. -/
theorem FrameSlot.feed_to_end {f : FrameSlot} (h : f.atOpenPos) (c fl hi lo : Byte) {x : Byte}
    (hx : x ≠ END) (y : Byte) :
    f.feed [START, VERSION, LENGTH, c, fl, hi, lo, x, y] =
      ({ commandId := c, feedbackFlag := fl, paramHi := hi, paramLo := lo, checksumHi := x,
         checksumLo := y, len := f.len, pos := 9#4 },
       List.replicate 9 false) := by
  have store_low : ∀ g : FrameSlot, g.pos = 8#4 →
      g.receive y = ({ g with checksumLo := y, pos := 9#4 }, false) := by
    intro g hg
    rw [FrameSlot.receive_at_buffered _ (.inr (.inr (.inr (.inr hg)))), hg]
    rfl
  rw [FrameSlot.feed_header h, FrameSlot.feed_payload rfl, FrameSlot.feed_cons,
    FrameSlot.receive_at_seven _ rfl, if_neg hx, FrameSlot.feed_cons, store_low _ rfl]
  rfl

/-- The scanner takes a long frame in from any open position, whatever its checksum is. -/
theorem FrameSlot.feed_longFrame {f : FrameSlot} (h : f.atOpenPos) (c fl hi lo : Byte) {x : Byte}
    (hx : x ≠ END) (y : Byte) :
    f.feed (longFrame c fl hi lo x y) =
      ({ commandId := c, feedbackFlag := fl, paramHi := hi, paramLo := lo, checksumHi := x,
         checksumLo := y, len := 10#4, pos := 0#4 },
       List.replicate 9 false ++ [true]) := by
  have last : longFrame c fl hi lo x y = [START, VERSION, LENGTH, c, fl, hi, lo, x, y] ++ [END] := rfl
  rw [last, FrameSlot.feed_append, FrameSlot.feed_to_end h c fl hi lo hx, FrameSlot.feed_cons,
    FrameSlot.receive_at_end _ rfl, if_pos rfl]
  rfl

/-- Settles O35. -/
theorem shortFrameIsReceivedFromOpenPosition : Obligations.ShortFrameIsReceivedFromOpenPosition :=
  fun _ _ c f h l hopen => exists_trace_feed (FrameSlot.feed_shortFrame hopen c f h l)

/-- Settles O36. -/
theorem longFrameIsReceivedFromOpenPosition : Obligations.LongFrameIsReceivedFromOpenPosition :=
  fun _ _ c f h l _ y hopen hx => exists_trace_feed (FrameSlot.feed_longFrame hopen c f h l hx y)

/-! ### A swallowed frame (R67) -/

/-- After a header and six bytes of payload, a byte that neither ends nor starts a frame sends the scanner
back to position 0, and noise leaves it there. -/
theorem FrameSlot.feed_swallow {f : FrameSlot} (h : f.atOpenPos) (c fl hi lo : Byte) {x y e : Byte}
    (hx : x ≠ END) (he : e ≠ END) (hs : e ≠ START) {noise : List Byte} (hnoise : START ∉ noise) :
    f.feed ([START, VERSION, LENGTH, c, fl, hi, lo, x, y] ++ e :: noise) =
      ({ f with
         commandId := c, feedbackFlag := fl, paramHi := hi, paramLo := lo, checksumHi := x,
         checksumLo := y, pos := 0#4 },
       List.replicate (10 + noise.length) false) := by
  rw [FrameSlot.feed_append, FrameSlot.feed_to_end h c fl hi lo hx, FrameSlot.feed_cons,
    FrameSlot.receive_at_end _ rfl, if_neg he, if_neg hs, FrameSlot.feed_noise rfl hnoise, List.replicate_add]
  simp

/-- Settles O40: the frame's header is taken as payload, and what follows holds no start byte. -/
theorem headerFragmentSwallowsTheNextFrame : Obligations.HeaderFragmentSwallowsTheNextFrame := by
  intro payload sl
  obtain ⟨p, hp⟩ := State.exists_slot_resetWith payload [] sl
  have swallowed := FrameSlot.feed_swallow (f := FrameSlot.afterReset p) (.inl (Nat.zero_le 2))
    0x01#8 0x02#8 0x7E#8 0xFF#8 (x := 0x06#8) (y := 0x06#8) (e := 0x01#8)
    (noise := [0x00#8, 0x14#8, 0xFE#8, 0xE0#8, 0xEF#8]) (by decide) (by decide) (by decide) (by decide)
  rw [← hp] at swallowed
  obtain ⟨t, htrace, _, hslot, _⟩ := exists_trace_feed swallowed
  rw [hp] at hslot
  exact ⟨t, htrace, hslot⟩

/-! ### Recovery (R95) -/

/-- A byte takes the scanner from a position that is not open to an open one, or one position on. -/
theorem FrameSlot.receive_of_not_atOpenPos {f : FrameSlot} (b : Byte) (h : ¬ f.atOpenPos) :
    (f.receive b).1.atOpenPos ∨ (f.receive b).1.pos.toNat = f.pos.toNat + 1 := by
  obtain hp | (hp | hp) | hp | hp | hp := f.pos_cases
  · rw [FrameSlot.receive_at_start b hp]
    left
    dsimp only [FrameSlot.atOpenPos]
    split <;> decide
  · exact absurd (.inl (by rw [hp]; decide)) h
  · exact absurd (.inl (by rw [hp]; decide)) h
  · exact absurd (.inr (by rw [hp]; decide)) h
  · rw [FrameSlot.receive_at_seven b hp]
    split
    · exact .inl (.inl (Nat.zero_le 2))
    · exact .inr (by rw [hp]; rfl)
  · rw [FrameSlot.receive_at_buffered b hp]
    right
    obtain hp | hp | hp | hp | hp := hp <;> rw [hp] <;> rfl

/-- As many bytes as are left to position 9 bring the scanner to an open position on the way. -/
theorem FrameSlot.exists_feed_take_atOpenPos (f : FrameSlot) {bs : List Byte}
    (h : 9 ≤ f.pos.toNat + bs.length) :
    ∃ k, k ≤ bs.length ∧ (f.feed (bs.take k)).1.atOpenPos := by
  induction bs generalizing f with
  | nil => exact ⟨0, Nat.le_refl 0, .inr h⟩
  | cons b bs ih =>
    by_cases hopen : f.atOpenPos
    · exact ⟨0, Nat.zero_le _, hopen⟩
    · obtain hnext | hnext := FrameSlot.receive_of_not_atOpenPos b hopen
      · exact ⟨1, by simp, hnext⟩
      · obtain ⟨k, hk, hreached⟩ := ih (f.receive b).1 (by rw [hnext]; simp at h; omega)
        exact ⟨k + 1, by simpa using hk, hreached⟩

/-- Settles O39: the position that is not open is at least 3, six bytes from position 9. -/
theorem sixBytesReachAnOpenPosition : Obligations.SixBytesReachAnOpenPosition := by
  intro s sl bs hlength
  have reach : ∃ k, k ≤ bs.length ∧ ((s.slot sl).feed (bs.take k)).1.atOpenPos := by
    by_cases hlow : (s.slot sl).pos.toNat ≤ 2
    · exact ⟨0, Nat.zero_le _, .inl hlow⟩
    · exact FrameSlot.exists_feed_take_atOpenPos _ (by omega)
  obtain ⟨k, hk, hopen⟩ := reach
  obtain ⟨t, htrace, _, hslot, _⟩ :=
    exists_trace_recvInputs (s := s) (sl := sl) (bs := bs.take k) rfl (recvInputs sl (bs.drop k))
  have split_bytes : recvInputs sl (bs.take k) ++ recvInputs sl (bs.drop k) = recvInputs sl bs := by
    rw [recvInputs, recvInputs, ← commandInputs_append, ← List.map_append, List.take_append_drop,
      recvInputs]
  rw [split_bytes, List.length_take, Nat.min_eq_left hk] at htrace
  exact ⟨k, _, t, hlength ▸ hk, htrace, hslot ▸ hopen⟩

/-! ### After `SET` (R54, R69) -/

section
variable (f : FrameSlot) (cmd : Byte) (param : Half) (fb : Bool)

theorem FrameSlot.isValid_encodeFrame : (f.encodeFrame cmd param fb).isValid = true :=
  (FrameSlot.isValid_of_long rfl).mpr (joinBytes_split _)

theorem FrameSlot.param_encodeFrame : (f.encodeFrame cmd param fb).param = param :=
  joinBytes_split param

/-- What `VALID` and the readers of fields answer after `SET`. -/
theorem answers_encodeFrame (sl : SlotId) :
    ([.valid sl, .getlen sl, .getcmd sl, .getparam sl, .getfb sl].map fun i =>
        (onSlot (f.encodeFrame cmd param fb) i).2) =
      [1#16, 10#16, BitVec.ofNat 16 cmd.toNat, param, if fb then 1#16 else 0#16].map .performed := by
  simp only [List.map_cons, List.map_nil, onSlot, FrameSlot.isValid_encodeFrame,
    FrameSlot.param_encodeFrame]
  rw [← byteResult_eq_ofNat, ← byteResult_feedbackByte]
  rfl

/-- After `SET` the slot offers its whole buffer, a long frame (R56). -/
theorem FrameSlot.readOut_encodeFrame :
    (f.encodeFrame cmd param fb).readOut = (f.encodeFrame cmd param fb).frame := by
  rw [FrameSlot.readOut_eq]
  rfl

end

/-- The scanner takes in what `SET` assembled, and then holds the same frame (R69). -/
theorem FrameSlot.feed_readOut_encodeFrame (f : FrameSlot) {g : FrameSlot} (h : g.atOpenPos)
    (cmd : Byte) (param : Half) (fb : Bool) :
    g.feed (f.encodeFrame cmd param fb).readOut =
      (({ f with pos := 0#4 } : FrameSlot).encodeFrame cmd param fb,
        List.replicate 9 false ++ [true]) := by
  rw [FrameSlot.readOut_encodeFrame]
  exact FrameSlot.feed_longFrame h _ _ _ _ (highByte_cksum16_frame_ne_END _ _ _ _) _

/-- Settles O38: the scanner ends with the frame of `SET` at position 0, which the readers read as they
would in slot `a`. -/
theorem roundTripFromEncoderToDecoder : Obligations.RoundTripFromEncoderToDecoder := by
  intro s t a b cmd param fb hset hopen reads
  have encoded : t.slot a = (s.slot a).encodeFrame cmd param fb := slot_of_exec hset
  rw [encoded]
  have fed := FrameSlot.feed_readOut_encodeFrame (s.slot a) hopen cmd param fb
  obtain ⟨u, htrace, _, hslot, _⟩ := exists_trace_commandInputs (sl := b)
    (is := (((s.slot a).encodeFrame cmd param fb).readOut.map fun x => .recv b x) ++
      [.valid b, .getlen b, .getcmd b, .getparam b, .getfb b])
    (by simp [or_imp, forall_and, Instr.slotId]) t []
  rw [runSlot_append, runSlot_recv, fed, runSlot_of_readers (by simp [onSlot])] at htrace hslot
  rw [answers_encodeFrame, commandInputs_append, List.append_nil] at htrace
  refine ⟨u, ?_, fun i => ?_⟩
  · rw [FrameSlot.readOut_encodeFrame] at htrace ⊢
    exact htrace
  · rw [hslot]
    rfl

/-- Settles O23: after `SET` the other operations are readers of one and the same slot. -/
theorem setIsReadBackByEveryReader : Obligations.SetIsReadBackByEveryReader := by
  intro sl cmd param fb s fbByte ck
  have feedback : fbByte = byteResult (feedbackByte fb) := (byteResult_feedbackByte fb).symm
  have checksum : ck = ((s.slot sl).encodeFrame cmd param fb).frameCk.toNat := by
    rw [FrameSlot.encodeFrame_frameCk_toNat, ← feedbackByte_toNat,
      ← byteResult_toNat (feedbackByte fb), ← feedback]
  obtain ⟨t, htrace, _, _, _⟩ := exists_trace_commandInputs (sl := sl)
    (is := [.set sl cmd param fb, .getlen sl, .valid sl, .getcmd sl, .getfb sl, .getparam sl,
      .getphi sl, .getplo sl, .getbyte sl 0#4, .getbyte sl 1#4, .getbyte sl 2#4, .getbyte sl 3#4,
      .getbyte sl 4#4, .getbyte sl 5#4, .getbyte sl 6#4, .getbyte sl 7#4, .getbyte sl 8#4,
      .getbyte sl 9#4])
    (by simp [Instr.slotId]) s []
  rw [List.append_nil, runSlot_cons, runSlot_of_readers (by simp [onSlot])] at htrace
  refine ⟨t, htrace.trans ?_⟩
  rw [checksum, feedback, ← byteResult_eq_ofNat, ← byteResult_highByte, ← byteResult_lowByte,
    ← byteResult_highByte, ← byteResult_lowByte]
  simp only [List.map_cons, List.map_nil, onSlot, FrameSlot.isValid_encodeFrame,
    FrameSlot.param_encodeFrame]
  rfl

end Sys2Proof.Machine
end

section
/-! Proofs of the history of a slot (spec/42_decoder.md: R68): what the scanner holds below its position
is the end of the bytes fed, so a completion has just received a whole frame. -/

namespace Sys2Proof.Machine

/-! ### The history below the position -/

theorem FrameSlot.tracks_of_pos_eq_zero {f : FrameSlot} (h : normalisePos f.pos = 0#4)
    (fed : List Byte) : f.tracks fed := by
  rw [FrameSlot.tracks, FrameSlot.received_eq, h]
  exact ⟨List.nil_suffix, fun past => absurd past (by decide)⟩

/-- A byte that completes and continues nothing is kept only if it starts a frame (R59). -/
theorem FrameSlot.tracks_restart (f : FrameSlot) (fed : List Byte) (b : Byte) :
    ({ f with pos := if b = START then 1#4 else 0#4 } : FrameSlot).tracks (fed ++ [b]) := by
  split
  · next hb =>
    rw [FrameSlot.tracks, FrameSlot.received_eq, hb]
    exact ⟨List.suffix_append fed [START], fun past => absurd past (by simp [normalisePos])⟩
  · exact FrameSlot.tracks_of_pos_eq_zero rfl _

/-- A byte accepted at the position of a slot continues the history. -/
theorem FrameSlot.tracks_advance {f g : FrameSlot} {fed : List Byte} {b : Byte}
    (h : f.tracks fed) (held : g.received = f.received ++ [b])
    (past : 8 ≤ (normalisePos g.pos).toNat → g.checksumHi ≠ END) : g.tracks (fed ++ [b]) := by
  rw [FrameSlot.tracks, held, List.suffix_append_self_iff]
  exact ⟨h.1, past⟩

theorem FrameSlot.received_of_pos {f : FrameSlot} {p : Nibble} (h : f.pos = p) :
    f.received = f.frame.take (normalisePos p).toNat := by
  rw [FrameSlot.received_eq, h]

/-- Every byte fed continues the history, whatever the scanner makes of it. -/
theorem FrameSlot.receive_tracks {f : FrameSlot} {fed : List Byte} (h : f.tracks fed) (b : Byte) :
    (f.receive b).1.tracks (fed ++ [b]) := by
  obtain hp | hp | hp | hp | hp := f.pos_cases
  · rw [FrameSlot.receive_at_start b hp]
    exact f.tracks_restart fed b
  · have header : ∃ c, (f.pos = 1#4 ∧ c = VERSION) ∨ (f.pos = 2#4 ∧ c = LENGTH) :=
      hp.elim (fun hp => ⟨VERSION, .inl ⟨hp, rfl⟩⟩) fun hp => ⟨LENGTH, .inr ⟨hp, rfl⟩⟩
    obtain ⟨c, hc⟩ := header
    rw [FrameSlot.receive_at_header b hc]
    by_cases hb : b = c
    · rw [if_pos hb, hb]
      obtain ⟨hp, rfl⟩ | ⟨hp, rfl⟩ := hc <;>
        exact FrameSlot.tracks_advance h (by rw [FrameSlot.received_of_pos hp, hp]; rfl)
          (by rw [hp]; simp [normalisePos])
    · rw [if_neg hb]
      exact f.tracks_restart fed b
  · rw [FrameSlot.receive_at_end b hp]
    split
    · exact FrameSlot.tracks_of_pos_eq_zero rfl _
    · exact f.tracks_restart fed b
  · rw [FrameSlot.receive_at_seven b hp]
    split
    · exact FrameSlot.tracks_of_pos_eq_zero rfl _
    · next hb =>
      exact FrameSlot.tracks_advance h (by rw [FrameSlot.received_of_pos hp]; rfl) fun _ => hb
  · rw [FrameSlot.receive_at_buffered b hp]
    refine FrameSlot.tracks_advance h ?held ?past
    case held => obtain hp | hp | hp | hp | hp := hp <;> rw [FrameSlot.received_of_pos hp, hp] <;> rfl
    case past =>
      obtain hp | hp | hp | hp | hp := hp <;> rw [hp] <;> intro past
      iterate 4 exact absurd past (by simp [normalisePos])
      exact h.2 (by rw [hp]; decide)

/-- What a completion means (R68): the bytes fed end with the whole frame that the slot now holds, short
or long. -/
theorem FrameSlot.frame_of_completion {f : FrameSlot} {fed : List Byte} {b : Byte}
    (h : f.tracks fed) (done : (f.receive b).2 = true) :
    ((f.receive b).1 = { f with checksumHi := END, len := 8#4, pos := 0#4 } ∧
      shortFrame f.commandId f.feedbackFlag f.paramHi f.paramLo <:+ fed ++ [b]) ∨
    ((f.receive b).1 = { f with len := 10#4, pos := 0#4 } ∧ f.checksumHi ≠ END ∧
      f.frame <:+ fed ++ [b]) := by
  obtain ⟨rfl, hp⟩ := (FrameSlot.receive_completed_iff f b).mp done
  have received_END : f.received ++ [END] <:+ fed ++ [END] := List.suffix_append_self_iff.mpr h.1
  obtain hp | hp := hp
  · left
    rw [FrameSlot.received_of_pos hp] at received_END
    rw [FrameSlot.receive_at_seven END hp, if_pos rfl]
    exact ⟨rfl, received_END⟩
  · right
    rw [FrameSlot.received_of_pos hp] at received_END
    rw [FrameSlot.receive_at_end END hp, if_pos rfl]
    exact ⟨rfl, h.2 (by rw [hp]; decide), received_END⟩

/-- The frame of a completion is the slot's own read-out (R56). -/
theorem FrameSlot.readOut_of_completion {f : FrameSlot} {fed : List Byte} {b : Byte}
    (h : f.tracks fed) (done : (f.receive b).2 = true) :
    (f.receive b).1.readOut <:+ fed ++ [b] ∧
      ((f.receive b).1.len = 8#4 ∨ (f.receive b).1.len = 10#4) := by
  obtain ⟨hslot, hframe⟩ | ⟨hslot, _, hframe⟩ := FrameSlot.frame_of_completion h done
  · rw [hslot, FrameSlot.readOut_eq]
    exact ⟨hframe, .inl rfl⟩
  · rw [hslot, FrameSlot.readOut_eq]
    exact ⟨hframe, .inr rfl⟩

/-- Settles O50: the step is the scanner on its slot, and the other slot is left alone. -/
theorem recvStepKeepsTheFedBytesInTheSlot : Obligations.RecvStepKeepsTheFedBytesInTheSlot := by
  intro s t sl b rest fed hinputs htracks hstep
  rw [step_of_command hinputs, performWord_of_decode_ok _ (decode_encode _)] at hstep
  rw [← State.slot_withInputs s sl rest] at htracks
  rw [answer_one_iff_of_exec_recv hstep, slot_of_exec_recv hstep]
  refine ⟨FrameSlot.receive_tracks htracks b, FrameSlot.readOut_of_completion htracks,
    fun o ho other hother => ?_⟩
  rw [slot_of_exec_of_ne hstep ho, State.slot_withInputs]
  exact hother

/-- Settles O51. -/
theorem resetSlotsTrackNoBytes : Obligations.ResetSlotsTrackNoBytes := by
  intro payload inputs sl
  cases sl <;> exact FrameSlot.tracks_of_pos_eq_zero rfl []

/-! ### Whole runs (R68) -/

theorem FrameSlot.feed_tracks {f : FrameSlot} {fed : List Byte} (h : f.tracks fed) (bs : List Byte) :
    (f.feed bs).1.tracks (fed ++ bs) := by
  induction bs generalizing f fed with
  | nil => rwa [List.append_nil]
  | cons b bs ih =>
    rw [FrameSlot.feed_cons, List.append_cons]
    exact ih (FrameSlot.receive_tracks h b)

theorem FrameSlot.feed_concat (f : FrameSlot) (bs : List Byte) (b : Byte) :
    f.feed (bs ++ [b]) =
      (((f.feed bs).1.receive b).1, (f.feed bs).2 ++ [((f.feed bs).1.receive b).2]) := by
  rw [FrameSlot.feed_append, FrameSlot.feed_cons, FrameSlot.feed_nil]

/-- Settles O37: at position 0 there is no history to hold, and the last byte completes the history of the
bytes before it. -/
theorem completionMeansAFrameWasJustReceived :
    Obligations.CompletionMeansAFrameWasJustReceived := by
  intro s t sl bs answers hpos htrace
  obtain ⟨u, hrun, _, hslot, _⟩ := exists_trace_feed (s := s) (sl := sl) (bs := bs) rfl
  obtain ⟨hanswers, rfl⟩ := Prod.mk.inj (Option.some.inj (hrun.symm.trans htrace))
  obtain rfl | ⟨init, b, rfl⟩ := List.eq_nil_or_concat bs
  · simp at hanswers
  rw [List.concat_eq_append, FrameSlot.feed_concat] at hanswers hslot
  rw [List.concat_eq_append]
  have done : (((s.slot sl).feed init).1.receive b).2 = true := by
    rw [List.map_append] at hanswers
    have last := (List.append_inj' hanswers rfl).2
    simpa [bitResult_eq_one_iff] using last
  have history : ((s.slot sl).feed init).1.tracks init :=
    FrameSlot.feed_tracks (FrameSlot.tracks_of_pos_eq_zero (by rw [hpos]; rfl) []) init
  obtain ⟨hheld, pre, hpre⟩ | ⟨hheld, hx, pre, hpre⟩ := FrameSlot.frame_of_completion history done
  · exact .inl ⟨pre, _, _, _, _, hpre.symm, _, hslot.trans hheld⟩
  · exact .inr ⟨pre, _, _, _, _, _, _, hx, hpre.symm, hslot.trans hheld⟩

end Sys2Proof.Machine
end
